-- ==== Sys2Proof/Word.lean ====
section
/-! DEFINITION. The bit-vector types of the block: what travels on a byte port, a character code, a value. -/

namespace Sys2Proof

/-- Eight bits of the request and response transport (the model's own byte layout, log 1). -/
abbrev Byte := BitVec 8

/-- A character: one `CHAR_W`-bit code, `CHAR_W = 8` (30_encoding.md R51). Two characters are the same exactly when
their codes are equal. -/
abbrev CharCode := BitVec 8

/-- A value: a 6-bit unsigned integer, bit 5 the most significant (00_scope.md R4, 30_encoding.md R50). It is a ROM
address. -/
abbrev Value := BitVec 6

/-- The 64 values in rising order. -/
def allValues : List Value := (List.range 64).map (BitVec.ofNat 6)

end Sys2Proof
end

