-- ==== Sys2Proof/Config.lean ====
section
/-! DEFINITION. What one instance of the block fixes: the parameters of 00_scope.md R3. -/

namespace Sys2Proof

/-- `BITS_PER_CHAR`, the hard-wired constant 6 (10_state.md R19). -/
def Config.bitsPerChar : Nat := 6

/-- Which of the 18 permitted permutations of `w x y z` the ROM of this instance holds at addresses 48 to 51: the OPEN
parameter `ROM_TAIL` (10_state.md R14, decision D3). It has no value in the model, so a proved claim holds for every
one of the 18 (log 8). DESIGN CHOICE, safe: the parameter is an index into the list of all permitted permutations. -/
opaque Config.romTailChoice : Fin 18

end Sys2Proof
end

