-- ==== Sys2Proof/Machine/Rom.lean ====
section
/-! DEFINITION. The contents of the alphabet ROM, as the spec's table gives them (10_state.md R12, R14, R24, codes of
30_encoding.md R52). -/

namespace Sys2Proof.Machine

/-- Addresses 0 to 25: `A` to `Z` (10_state.md R12). -/
def romUpper : List CharCode :=
  [0x41#8, 0x42#8, 0x43#8, 0x44#8, 0x45#8, 0x46#8, 0x47#8, 0x48#8, 0x49#8, 0x4A#8, 0x4B#8, 0x4C#8, 0x4D#8] ++
  [0x4E#8, 0x4F#8, 0x50#8, 0x51#8, 0x52#8, 0x53#8, 0x54#8, 0x55#8, 0x56#8, 0x57#8, 0x58#8, 0x59#8, 0x5A#8]

/-- Addresses 26 to 47: `a` to `v` (10_state.md R14; the order is the spec's decision D2, log 9). -/
def romLower : List CharCode :=
  [0x61#8, 0x62#8, 0x63#8, 0x64#8, 0x65#8, 0x66#8, 0x67#8, 0x68#8, 0x69#8, 0x6A#8, 0x6B#8] ++
  [0x6C#8, 0x6D#8, 0x6E#8, 0x6F#8, 0x70#8, 0x71#8, 0x72#8, 0x73#8, 0x74#8, 0x75#8, 0x76#8]

/-- Addresses 52 to 61: `0` to `9` (10_state.md R12). -/
def romDigits : List CharCode :=
  [0x30#8, 0x31#8, 0x32#8, 0x33#8, 0x34#8, 0x35#8, 0x36#8, 0x37#8, 0x38#8, 0x39#8]

/-- Addresses 62 and 63: `_` and `-` (10_state.md R12). -/
def romPunct : List CharCode := [0x5F#8, 0x2D#8]

/-- Four symbols at consecutive addresses. -/
structure Tail where
  t0 : CharCode
  t1 : CharCode
  t2 : CharCode
  t3 : CharCode
  deriving DecidableEq, Repr

/-- The permutations of `w x y z` whose first element is not `w` (10_state.md R14). -/
def romTails : List Tail :=
  [⟨0x78#8, 0x77#8, 0x79#8, 0x7A#8⟩,
   ⟨0x78#8, 0x77#8, 0x7A#8, 0x79#8⟩,
   ⟨0x78#8, 0x79#8, 0x77#8, 0x7A#8⟩,
   ⟨0x78#8, 0x79#8, 0x7A#8, 0x77#8⟩,
   ⟨0x78#8, 0x7A#8, 0x77#8, 0x79#8⟩,
   ⟨0x78#8, 0x7A#8, 0x79#8, 0x77#8⟩,
   ⟨0x79#8, 0x77#8, 0x78#8, 0x7A#8⟩,
   ⟨0x79#8, 0x77#8, 0x7A#8, 0x78#8⟩,
   ⟨0x79#8, 0x78#8, 0x77#8, 0x7A#8⟩,
   ⟨0x79#8, 0x78#8, 0x7A#8, 0x77#8⟩,
   ⟨0x79#8, 0x7A#8, 0x77#8, 0x78#8⟩,
   ⟨0x79#8, 0x7A#8, 0x78#8, 0x77#8⟩,
   ⟨0x7A#8, 0x77#8, 0x78#8, 0x79#8⟩,
   ⟨0x7A#8, 0x77#8, 0x79#8, 0x78#8⟩,
   ⟨0x7A#8, 0x78#8, 0x77#8, 0x79#8⟩,
   ⟨0x7A#8, 0x78#8, 0x79#8, 0x77#8⟩,
   ⟨0x7A#8, 0x79#8, 0x77#8, 0x78#8⟩,
   ⟨0x7A#8, 0x79#8, 0x78#8, 0x77#8⟩]

theorem romTails_length : romTails.length = 18 := rfl

/-- `ROM_TAIL` of an instance: the permutation the instance's choice names. -/
def romTail (k : Fin 18) : Tail := romTails[k.val]'(by rw [romTails_length]; exact k.isLt)

/-- The 64 entries in address order (10_state.md R24). -/
def romTable (k : Fin 18) : List CharCode :=
  romUpper ++ romLower ++ [(romTail k).t0, (romTail k).t1, (romTail k).t2, (romTail k).t3] ++ romDigits ++ romPunct

theorem romTable_length (k : Fin 18) : (romTable k).length = 64 := rfl

/-- Entry `v` of the table of an instance: `ROM[v]` of 10_state.md R11. -/
def romEntry (k : Fin 18) (v : Value) : CharCode := (romTable k)[v.toNat]'(by rw [romTable_length]; exact v.isLt)

/-- The contents the ROM has at reset and at every other time (10_state.md R23 (a)). -/
def romReset (v : Value) : CharCode := romEntry Config.romTailChoice v

end Sys2Proof.Machine
end

