-- ==== Sys2Proof/Syntax.lean ====
section
/-! DEFINITION. The instructions: one constructor per row of the opcode table, and the responses of the block. -/

namespace Sys2Proof

/-- The `RESULT` of an OK response, one form per operation (30_encoding.md R57). -/
inductive Result where
  /-- One character: the result of `SYMAT` and of a ROM access. -/
  | char (c : CharCode)
  /-- One 6-bit value: the result of `IDXOF`. -/
  | value (v : Value)
  /-- A BitString, position 0 leftmost: the result of `DEC`. -/
  | bitString (b : List CharCode)
  /-- A ClipString, position 0 leftmost: the result of `ENC`. -/
  | clipString (s : List CharCode)
  /-- A natural number: the result of `BPC`. -/
  | number (n : Nat)
  deriving DecidableEq, Repr

/-- The three error kinds, each with the payload it records and nothing more (60_exceptions.md R110 to R114). -/
inductive CodecError where
  | invalidCharacter (ch : CharCode)
  | invalidBit (ch : CharCode)
  | invalidLength (len : Nat)
  deriving DecidableEq, Repr

/-- The response to one request: a result or an error, never both and never neither (30_encoding.md R57). -/
inductive Response where
  | ok (r : Result)
  | error (e : CodecError)
  deriving DecidableEq, Repr

/-- One constructor per row of spec/opcode_table.json. The first five are the operations a requester presents
(30_encoding.md R56), the next three its reserved op-select codes (R60), the next four the response format's status
codes with their payloads (R57, 60_exceptions.md R114; log 3), the last 64 the value format's ROM entries (10_state.md
R24; log 4). -/
inductive Instr where
  /-- `SYMAT V`: the symbol at a value (40_alphabet_lookup.md R70). -/
  | symat (v : Value)
  /-- `IDXOF C`: the value of a symbol (40_alphabet_lookup.md R71). -/
  | idxof (c : CharCode)
  /-- `DEC S`: clip string to bit string; `S` a raw sequence (42_decode.md R90). -/
  | dec (s : List CharCode)
  /-- `ENC B`: bit string to clip string; `B` a raw sequence (43_encode.md R100). -/
  | enc (b : List CharCode)
  /-- `BPC`: the constant `BITS_PER_CHAR` (40_alphabet_lookup.md R72). -/
  | bpc
  /-- `OP = 0b101`, which selects no operation (30_encoding.md R60). -/
  | reserved101
  /-- `OP = 0b110`, which selects no operation (30_encoding.md R60). -/
  | reserved110
  /-- `OP = 0b111`, which selects no operation (30_encoding.md R60). -/
  | reserved111
  /-- `STATUS = 0b00`: a transaction ends OK with a result (00_scope.md R6, `return OK(x)`). -/
  | statusOk (r : Result)
  /-- `STATUS = 0b01`: a transaction ends in `InvalidCharacter(ch)` (00_scope.md R6, `raise`). -/
  | statusInvalidCharacter (ch : CharCode)
  /-- `STATUS = 0b10`: a transaction ends in `InvalidBit(ch)` (00_scope.md R6, `raise`). -/
  | statusInvalidBit (ch : CharCode)
  /-- `STATUS = 0b11`: a transaction ends in `InvalidLength(len)` (00_scope.md R6, `raise`). -/
  | statusInvalidLength (len : Nat)
  | rom00 | rom01 | rom02 | rom03 | rom04 | rom05 | rom06 | rom07
  | rom08 | rom09 | rom10 | rom11 | rom12 | rom13 | rom14 | rom15
  | rom16 | rom17 | rom18 | rom19 | rom20 | rom21 | rom22 | rom23
  | rom24 | rom25 | rom26 | rom27 | rom28 | rom29 | rom30 | rom31
  | rom32 | rom33 | rom34 | rom35 | rom36 | rom37 | rom38 | rom39
  | rom40 | rom41 | rom42 | rom43 | rom44 | rom45 | rom46 | rom47
  | rom48 | rom49 | rom50 | rom51 | rom52 | rom53 | rom54 | rom55
  | rom56 | rom57 | rom58 | rom59 | rom60 | rom61 | rom62 | rom63
  deriving DecidableEq, Repr

end Sys2Proof
end

