-- ==== Sys2Proof/WellFormed.lean ====
section
/-! DEFINITION. Well-formed instructions: which payloads a response word may carry. Every request is well formed, since
the requester may send anything (60_exceptions.md R124). -/

namespace Sys2Proof

/-- The 64 symbols, by code: letters, digits, `_` and `-` (10_state.md R12, R13, codes of 30_encoding.md R52). Which
permutation the lowercase block is does not matter here. -/
def isSymbol (c : CharCode) : Bool :=
  (0x41 ≤ c.toNat && c.toNat ≤ 0x5A) || (0x61 ≤ c.toNat && c.toNat ≤ 0x7A) ||
  (0x30 ≤ c.toNat && c.toNat ≤ 0x39) || c.toNat == 0x5F || c.toNat == 0x2D

/-- The two bit-characters `0` and `1` (30_encoding.md R53). -/
def isBitChar (c : CharCode) : Bool := c == 0x30#8 || c == 0x31#8

/-- A result the block can give: symbols only in a ClipString (43_encode.md R104 (c)), bit-characters only and a
multiple of 6 of them in a BitString (42_decode.md R93 (c)), and the number 6 (40_alphabet_lookup.md R72). -/
def Result.wf : Result → Bool
  | .char c => isSymbol c
  | .value _ => true
  | .bitString b => b.all isBitChar && b.length % 6 == 0
  | .clipString s => s.all isSymbol
  | .number n => n == 6

/-- A payload the error can record (60_exceptions.md R110 to R113): no symbol in `InvalidCharacter`, no bit-character
in `InvalidBit`, no multiple of 6 in `InvalidLength`. -/
def CodecError.wf : CodecError → Bool
  | .invalidCharacter ch => !isSymbol ch
  | .invalidBit ch => !isBitChar ch
  | .invalidLength len => len % 6 != 0

def Response.wf : Response → Bool
  | .ok r => r.wf
  | .error e => e.wf

/-- Only a response word can be ill formed. -/
def Instr.wf : Instr → Bool
  | .symat _ | .idxof _ | .dec _ | .enc _ | .bpc => true
  | .reserved101 | .reserved110 | .reserved111 => true
  | .statusOk r => r.wf
  | .statusInvalidCharacter ch => (CodecError.invalidCharacter ch).wf
  | .statusInvalidBit ch => (CodecError.invalidBit ch).wf
  | .statusInvalidLength len => (CodecError.invalidLength len).wf
  | .rom00 | .rom01 | .rom02 | .rom03 | .rom04 | .rom05 | .rom06 | .rom07 => true
  | .rom08 | .rom09 | .rom10 | .rom11 | .rom12 | .rom13 | .rom14 | .rom15 => true
  | .rom16 | .rom17 | .rom18 | .rom19 | .rom20 | .rom21 | .rom22 | .rom23 => true
  | .rom24 | .rom25 | .rom26 | .rom27 | .rom28 | .rom29 | .rom30 | .rom31 => true
  | .rom32 | .rom33 | .rom34 | .rom35 | .rom36 | .rom37 | .rom38 | .rom39 => true
  | .rom40 | .rom41 | .rom42 | .rom43 | .rom44 | .rom45 | .rom46 | .rom47 => true
  | .rom48 | .rom49 | .rom50 | .rom51 | .rom52 | .rom53 | .rom54 | .rom55 => true
  | .rom56 | .rom57 | .rom58 | .rom59 | .rom60 | .rom61 | .rom62 | .rom63 => true

end Sys2Proof
end

