-- ==== Sys2Proof/Decode.lean ====
section
/-! DEFINITION. Decoding bytes to an instruction, the encoder, and the opcode table's words. The codes are the table's
(30_encoding.md R56, R57, R50); how they and the operands lie in bytes is the model's own layout (logs 1 and 2):

  first byte 00 to 07   a request; bits 2:0 are `OP`, then the operand: `V` in one byte, `C` in one byte, `S` or `B` as
                        its length and then its codes, leftmost first
  first byte 08 to 3F   a ROM entry's value word, values 8 to 63
  first byte 40 to 43   a response; bits 1:0 are `STATUS`, then its payload
  first byte 80 to 87   a ROM entry's value word, values 0 to 7 (bare, they would be requests)

A length or a number is a sequence of 7-bit digits, least significant first, bit 7 set on every one but the last. -/

namespace Sys2Proof

/-- Why bytes are no instruction. -/
inductive DecodeError where
  /-- No byte at all. -/
  | noBytes
  /-- The bytes end inside an operand. -/
  | truncated
  /-- The first byte is of no format. -/
  | reservedFormat (b : Byte)
  /-- A byte that should hold a value holds a number outside 0..63 (60_exceptions.md R119). -/
  | valueOutOfRange (b : Byte)
  /-- A number has a leading digit 0. -/
  | paddedNumber
  /-- The kind of an OK response's result is none of the five. -/
  | reservedResult (b : Byte)
  /-- The payload is none the response can carry (WellFormed.lean). -/
  | illFormed
  deriving DecidableEq, Repr

/-! The decoder. -/

/-- One byte. -/
def decodeByte : List Byte → Except DecodeError (Byte × List Byte)
  | [] => .error .truncated
  | b :: bs => .ok (b, bs)

/-- A value in one byte. -/
def decodeValue : List Byte → Except DecodeError (Value × List Byte)
  | [] => .error .truncated
  | b :: bs => if b.toNat < 64 then .ok (b.setWidth 6, bs) else .error (.valueOutOfRange b)

/-- A natural number of any size. -/
def decodeNat : List Byte → Except DecodeError (Nat × List Byte)
  | [] => .error .truncated
  | b :: bs =>
    if b.toNat < 128 then .ok (b.toNat, bs)
    else
      match decodeNat bs with
      | .error e => .error e
      | .ok (n, rest) => if n = 0 then .error .paddedNumber else .ok (b.toNat - 128 + 128 * n, rest)

/-- A sequence: its length, then its codes. -/
def decodeSeq (bs : List Byte) : Except DecodeError (List CharCode × List Byte) :=
  match decodeNat bs with
  | .error e => .error e
  | .ok (n, rest) => if rest.length < n then .error .truncated else .ok (rest.take n, rest.drop n)

/-- Apply a constructor to a decoded operand. -/
def operand {α β : Type} (f : α → β) : Except DecodeError (α × List Byte) → Except DecodeError (β × List Byte)
  | .error e => .error e
  | .ok (a, rest) => .ok (f a, rest)

/-- The result of an OK response: its kind, then its payload. -/
def decodeResult : List Byte → Except DecodeError (Result × List Byte)
  | [] => .error .truncated
  | b :: bs =>
    match b.toNat with
    | 0 => operand .char (decodeByte bs)
    | 1 => operand .value (decodeValue bs)
    | 2 => operand .bitString (decodeSeq bs)
    | 3 => operand .clipString (decodeSeq bs)
    | 4 => operand .number (decodeNat bs)
    | _ => .error (.reservedResult b)

def romRowsA : List Instr :=
  [.rom00, .rom01, .rom02, .rom03, .rom04, .rom05, .rom06, .rom07,
   .rom08, .rom09, .rom10, .rom11, .rom12, .rom13, .rom14, .rom15]

def romRowsB : List Instr :=
  [.rom16, .rom17, .rom18, .rom19, .rom20, .rom21, .rom22, .rom23,
   .rom24, .rom25, .rom26, .rom27, .rom28, .rom29, .rom30, .rom31]

def romRowsC : List Instr :=
  [.rom32, .rom33, .rom34, .rom35, .rom36, .rom37, .rom38, .rom39,
   .rom40, .rom41, .rom42, .rom43, .rom44, .rom45, .rom46, .rom47]

def romRowsD : List Instr :=
  [.rom48, .rom49, .rom50, .rom51, .rom52, .rom53, .rom54, .rom55,
   .rom56, .rom57, .rom58, .rom59, .rom60, .rom61, .rom62, .rom63]

/-- The rows of kind rom_entry, in address order. -/
def romRows : List Instr := romRowsA ++ romRowsB ++ romRowsC ++ romRowsD

theorem romRows_length : romRows.length = 64 := rfl

/-- The row of kind rom_entry whose 6-bit pattern is `v`. -/
def romRow (v : Value) : Instr := romRows[v.toNat]'(by rw [romRows_length]; exact v.isLt)

/-- The request an op-select code selects, and its operand (30_encoding.md R56, R60). -/
def decodeRequest (op : BitVec 3) (bs : List Byte) : Except DecodeError (Instr × List Byte) :=
  if op = 0b000#3 then operand .symat (decodeValue bs)
  else if op = 0b001#3 then operand .idxof (decodeByte bs)
  else if op = 0b010#3 then operand .dec (decodeSeq bs)
  else if op = 0b011#3 then operand .enc (decodeSeq bs)
  else if op = 0b100#3 then .ok (.bpc, bs)
  else if op = 0b101#3 then .ok (.reserved101, bs)
  else if op = 0b110#3 then .ok (.reserved110, bs)
  else .ok (.reserved111, bs)

/-- The response a status code selects, and its payload (30_encoding.md R57). -/
def decodeStatus (status : BitVec 2) (bs : List Byte) : Except DecodeError (Instr × List Byte) :=
  if status = 0b00#2 then operand .statusOk (decodeResult bs)
  else if status = 0b01#2 then operand .statusInvalidCharacter (decodeByte bs)
  else if status = 0b10#2 then operand .statusInvalidBit (decodeByte bs)
  else operand .statusInvalidLength (decodeNat bs)

/-- What the first byte selects, operands and all. -/
def decodeFormat (b : Byte) (bs : List Byte) : Except DecodeError (Instr × List Byte) :=
  if b.toNat < 0x08 then decodeRequest (b.setWidth 3) bs
  else if b.toNat < 0x40 then .ok (romRow (b.setWidth 6), bs)
  else if b.toNat < 0x44 then decodeStatus (b.setWidth 2) bs
  else if 0x80 ≤ b.toNat ∧ b.toNat < 0x88 then .ok (romRow (b.setWidth 6), bs)
  else .error (.reservedFormat b)

/-- The first instruction of the bytes and the bytes after it, or why there is none. -/
def decode : List Byte → Except DecodeError (Instr × List Byte)
  | [] => .error .noBytes
  | b :: bs =>
    match decodeFormat b bs with
    | .error e => .error e
    | .ok (i, rest) => if i.wf then .ok (i, rest) else .error .illFormed

/-! The encoder. -/

/-- The digits of a number; the fuel, at least the number, bounds how many there are. -/
def encodeNatFuel : Nat → Nat → List Byte
  | 0, n => [BitVec.ofNat 8 n]
  | fuel + 1, n =>
    if n < 128 then [BitVec.ofNat 8 n] else BitVec.ofNat 8 (128 + n % 128) :: encodeNatFuel fuel (n / 128)

def encodeNat (n : Nat) : List Byte := encodeNatFuel n n

def encodeSeq (s : List CharCode) : List Byte := encodeNat s.length ++ s

/-- A value on a wider port, zero-extended (00_scope.md R6, `zext`). -/
def encodeValue (v : Value) : List Byte := [v.setWidth 8]

def encodeResult : Result → List Byte
  | .char c => [0x00#8, c]
  | .value v => 0x01#8 :: encodeValue v
  | .bitString b => 0x02#8 :: encodeSeq b
  | .clipString s => 0x03#8 :: encodeSeq s
  | .number n => 0x04#8 :: encodeNat n

/-- The bytes of an instruction. -/
def encode : Instr → List Byte
  | .symat v => 0x00#8 :: encodeValue v
  | .idxof c => [0x01#8, c]
  | .dec s => 0x02#8 :: encodeSeq s
  | .enc b => 0x03#8 :: encodeSeq b
  | .bpc => [0x04#8]
  | .reserved101 => [0x05#8]
  | .reserved110 => [0x06#8]
  | .reserved111 => [0x07#8]
  | .statusOk r => 0x40#8 :: encodeResult r
  | .statusInvalidCharacter ch => [0x41#8, ch]
  | .statusInvalidBit ch => [0x42#8, ch]
  | .statusInvalidLength len => 0x43#8 :: encodeNat len
  | .rom00 => [0x80#8]
  | .rom01 => [0x81#8]
  | .rom02 => [0x82#8]
  | .rom03 => [0x83#8]
  | .rom04 => [0x84#8]
  | .rom05 => [0x85#8]
  | .rom06 => [0x86#8]
  | .rom07 => [0x87#8]
  | .rom08 => [0x08#8]
  | .rom09 => [0x09#8]
  | .rom10 => [0x0A#8]
  | .rom11 => [0x0B#8]
  | .rom12 => [0x0C#8]
  | .rom13 => [0x0D#8]
  | .rom14 => [0x0E#8]
  | .rom15 => [0x0F#8]
  | .rom16 => [0x10#8]
  | .rom17 => [0x11#8]
  | .rom18 => [0x12#8]
  | .rom19 => [0x13#8]
  | .rom20 => [0x14#8]
  | .rom21 => [0x15#8]
  | .rom22 => [0x16#8]
  | .rom23 => [0x17#8]
  | .rom24 => [0x18#8]
  | .rom25 => [0x19#8]
  | .rom26 => [0x1A#8]
  | .rom27 => [0x1B#8]
  | .rom28 => [0x1C#8]
  | .rom29 => [0x1D#8]
  | .rom30 => [0x1E#8]
  | .rom31 => [0x1F#8]
  | .rom32 => [0x20#8]
  | .rom33 => [0x21#8]
  | .rom34 => [0x22#8]
  | .rom35 => [0x23#8]
  | .rom36 => [0x24#8]
  | .rom37 => [0x25#8]
  | .rom38 => [0x26#8]
  | .rom39 => [0x27#8]
  | .rom40 => [0x28#8]
  | .rom41 => [0x29#8]
  | .rom42 => [0x2A#8]
  | .rom43 => [0x2B#8]
  | .rom44 => [0x2C#8]
  | .rom45 => [0x2D#8]
  | .rom46 => [0x2E#8]
  | .rom47 => [0x2F#8]
  | .rom48 => [0x30#8]
  | .rom49 => [0x31#8]
  | .rom50 => [0x32#8]
  | .rom51 => [0x33#8]
  | .rom52 => [0x34#8]
  | .rom53 => [0x35#8]
  | .rom54 => [0x36#8]
  | .rom55 => [0x37#8]
  | .rom56 => [0x38#8]
  | .rom57 => [0x39#8]
  | .rom58 => [0x3A#8]
  | .rom59 => [0x3B#8]
  | .rom60 => [0x3C#8]
  | .rom61 => [0x3D#8]
  | .rom62 => [0x3E#8]
  | .rom63 => [0x3F#8]

/-! The opcode table's words. -/

/-- The low `n` bytes of a word, least significant first. -/
def wordBytes : Nat → Nat → List Byte
  | 0, _ => []
  | n + 1, w => BitVec.ofNat 8 w :: wordBytes n (w / 256)

/-- A table word as bytes on the port, followed by zero bytes enough for any operand the table gives no bits. -/
def paddedWordBytes (nbits w : Nat) : List Byte := wordBytes ((nbits + 7) / 8) w ++ List.replicate 16 0#8

/-- The instruction the decoder reads from a word of the opcode table. Several rows of the table have one and the same
word (`SYMAT`, `STATUS_OK` and `ROM_00` are all 0); such a word is the request (log 2). -/
def decodeTableWord (nbits w : Nat) : Option Instr :=
  match decode (paddedWordBytes nbits w) with
  | .ok (i, _) => some i
  | .error _ => none

/-- The bytes of a table word that its instruction takes up. -/
def tableWordBytes (nbits w : Nat) : List Byte :=
  match decode (paddedWordBytes nbits w) with
  | .ok (_, rest) => (paddedWordBytes nbits w).take ((paddedWordBytes nbits w).length - rest.length)
  | .error _ => paddedWordBytes nbits w

end Sys2Proof
end

