-- ==== Sys2Proof/Machine/State.lean ====
section
/-! DEFINITION. The state of the block, its reset value, and why a step can stop. -/

namespace Sys2Proof.Machine

/-- The ROM space (20_memory.md R30): pairs of an address and a byte, addresses strictly rising, no pair equal to what an
unlisted address reads as. An unlisted address reads as the table of 10_state.md R24 (`romReset`), so the ROM the spec
gives is the empty list. No operation writes it (20_memory.md R41). -/
abbrev Memory := List Host.Cell

structure State where
  /-- The alphabet ROM, the whole architectural state (10_state.md R10). -/
  mem : Memory
  /-- The bytes presented at the request port and not yet served. The model's own field (log 5). -/
  inbox : List Byte
  /-- The responses delivered at the response port, oldest first. The model's own field (log 5). -/
  outbox : List Response
  deriving DecidableEq, Repr

/-- No fault exists: nothing hangs, traps or gives an undefined result (60_exceptions.md R125). The three error kinds are
responses, hence next states (log 19). -/
inductive Fault where
  deriving DecidableEq, Repr

/-- Why a step has no next state. -/
inductive Refusal where
  /-- Raised by no meaning: an instruction that has none yet. Safe. -/
  | notModelled (mnemonic : String)
  /-- Raised by `RESERVED_101`, `RESERVED_110`, `RESERVED_111`: the op-select code selects no operation (30_encoding.md
  R60). Safe: the spec says the request has no step and no response. -/
  | reservedOperation (op : BitVec 3)
  /-- Raised by `step`: the bytes at the request port are no instruction of the model's layout (log 7). Safe: nothing
  happens. -/
  | undecodable (reason : DecodeError)
  deriving DecidableEq, Repr

/-- The block after reset: the ROM holds the table (10_state.md R23, 70_reset_and_hazards.md R130) and nothing is
presented or delivered. -/
def State.reset : State := { mem := [], inbox := [], outbox := [] }

end Sys2Proof.Machine
end

