-- ==== Sys2Proof/Machine/Ops.lean ====
section
/-! DEFINITION. The operations every meaning is made of: reading the ROM by address and by content, reading the constant,
and ending a transaction with a response. There is no write (00_scope.md R6, `MemWrite` does not exist). -/

namespace Sys2Proof.Machine

/-- `ROM[v]` of a memory (20_memory.md R35: one entry). -/
def romRead (m : Memory) (v : Value) : CharCode :=
  match m.find? (fun cell => cell.1 == v.toNat) with
  | some cell => cell.2
  | none => romReset v

/-- The ROM by a wider address: none outside 0..63, where nothing exists (20_memory.md R38, 60_exceptions.md R119). -/
def romReadAt (m : Memory) (a : Nat) : Option CharCode := if a < 64 then some (romRead m (BitVec.ofNat 6 a)) else none

/-- A listed cell lies in the ROM space and differs from what its address reads as unlisted. -/
def Memory.cellOk (cell : Host.Cell) : Bool := decide (cell.1 < 64) && cell.2 != romReset (BitVec.ofNat 6 cell.1)

/-- The canonical form: addresses strictly rising, every cell in the space and needed. -/
def Memory.wf : Memory → Bool
  | [] => true
  | cell :: rest => Memory.cellOk cell && rest.all (fun later => decide (cell.1 < later.1)) && Memory.wf rest

/-- The symbol-to-value decoder: the value whose entry is the character, if there is one (40_alphabet_lookup.md R71). The
search goes upward from 0; entries are distinct, so the direction does not matter (R73, log 20). -/
def indexOf (rom : Value → CharCode) (c : CharCode) : Option Value := allValues.find? (fun v => rom v == c)

/-- The hard-wired constant `BITS_PER_CHAR` (10_state.md R19), the same in every state. -/
def readBitsPerChar (_s : State) : Nat := Config.bitsPerChar

/-- A state with one more response delivered. -/
def State.deliver (s : State) (r : Response) : State := { s with outbox := s.outbox ++ [r] }

/-- End the transaction with a response: the requester receives it, the working values are gone and nothing else has
changed (00_scope.md R6, 60_exceptions.md R116). -/
def endTransaction (r : Response) (s : State) : Host.Outcome State Fault Refusal := .next (s.deliver r)

/-- `return OK(x)` (00_scope.md R6). -/
def returnOk (r : Result) (s : State) : Host.Outcome State Fault Refusal := endTransaction (.ok r) s

/-- `raise E(info)`, the block's whole exception entry (60_exceptions.md R116): nothing is saved, no mode changes, control
goes nowhere. There is no return from it (R117). -/
def raiseError (e : CodecError) (s : State) : Host.Outcome State Fault Refusal := endTransaction (.error e) s

/-- The response of a computation that raised an error or gave a result. -/
def responseOf : Except CodecError Result → Response
  | .ok r => .ok r
  | .error e => .error e

/-- End the transaction with what a computation gave. -/
def conclude (x : Except CodecError Result) (s : State) : Host.Outcome State Fault Refusal := endTransaction (responseOf x) s

/-- One ROM access by address, its symbol delivered (40_alphabet_lookup.md R70). -/
def readEntry (v : Value) (s : State) : Host.Outcome State Fault Refusal := returnOk (.char (romRead s.mem v)) s

end Sys2Proof.Machine
end

