-- ==== Sys2Proof/Machine/Operands.lean ====
section
/-! DEFINITION. The bit-group datapath (41_bit_groups.md) and the sequence forms of `DEC` and `ENC`. A bit is a Bool,
false for 0 and true for 1. -/

namespace Sys2Proof.Machine

/-- `BITCH`: bit to bit-character (41_bit_groups.md R80). -/
def bitch (b : Bool) : CharCode := if b then 0x31#8 else 0x30#8

/-- `BITVAL`: bit-character to bit; none for every other character (41_bit_groups.md R81). -/
def bitval (c : CharCode) : Option Bool :=
  if c = 0x30#8 then some false else if c = 0x31#8 then some true else none

/-- `BITS6`, the group renderer: six bit-characters, most significant bit first (41_bit_groups.md R82). -/
def bits6 (v : Value) : List CharCode :=
  [bitch (v.getLsbD 5), bitch (v.getLsbD 4), bitch (v.getLsbD 3), bitch (v.getLsbD 2), bitch (v.getLsbD 1),
   bitch (v.getLsbD 0)]

/-- `VAL6`, the group parser: the value of six bits, leftmost the most significant (41_bit_groups.md R83). -/
def val6 (g0 g1 g2 g3 g4 g5 : Bool) : Value :=
  BitVec.ofNat 6 (32 * g0.toNat + 16 * g1.toNat + 8 * g2.toNat + 4 * g3.toNat + 2 * g4.toNat + g5.toNat)

/-- Render looked-up characters in processing order, or raise `InvalidCharacter` at the first that is no symbol
(42_decode.md R91). -/
def renderSeq (rom : Value → CharCode) : List CharCode → Except CodecError (List CharCode)
  | [] => .ok []
  | c :: cs =>
    match indexOf rom c with
    | none => .error (.invalidCharacter c)
    | some v =>
      match renderSeq rom cs with
      | .error e => .error e
      | .ok out => .ok (bits6 v ++ out)

/-- Read characters as bits, or raise `InvalidBit` at the leftmost that is no bit-character (43_encode.md R101, R102 (a)). -/
def parseBits : List CharCode → Except CodecError (List Bool)
  | [] => .ok []
  | c :: cs =>
    match bitval c with
    | none => .error (.invalidBit c)
    | some b =>
      match parseBits cs with
      | .error e => .error e
      | .ok bs => .ok (b :: bs)

/-- The values of the groups, leftmost group first (43_encode.md R103). Only bits whose number is a multiple of 6 come
here. -/
def groupValues : List Bool → List Value
  | g0 :: g1 :: g2 :: g3 :: g4 :: g5 :: rest => val6 g0 g1 g2 g3 g4 g5 :: groupValues rest
  | _ => []

end Sys2Proof.Machine
end

