-- ==== Sys2Proof/Machine/Codec.lean ====
section
/-! DEFINITION. The two sequence engines (42_decode.md, 43_encode.md). -/

namespace Sys2Proof.Machine

/-- Clip string to bit string: symbols consumed right to left (42_decode.md R91). -/
def decodeClip (rom : Value → CharCode) (s : List CharCode) : Except CodecError Result :=
  match renderSeq rom s.reverse with
  | .ok out => .ok (.bitString out)
  | .error e => .error e

/-- Bit string to clip string: every character checked, then the length, then the groups from the left, and the symbols
reversed (43_encode.md R103). -/
def encodeBits (rom : Value → CharCode) (b : List CharCode) : Except CodecError Result :=
  match parseBits b with
  | .error e => .error e
  | .ok bits =>
    if b.length % 6 = 0 then .ok (.clipString ((groupValues bits).map rom).reverse) else .error (.invalidLength b.length)

/-- `DEC` (42_decode.md R90 to R94). -/
def execDec (cs : List CharCode) (s : State) : Host.Outcome State Fault Refusal :=
  conclude (decodeClip (romRead s.mem) cs) s

/-- `ENC` (43_encode.md R100 to R105). -/
def execEnc (cs : List CharCode) (s : State) : Host.Outcome State Fault Refusal :=
  conclude (encodeBits (romRead s.mem) cs) s

end Sys2Proof.Machine
end

