-- ==== Sys2Proof/Machine/Lookup.lean ====
section
/-! DEFINITION. The single-item operations (40_alphabet_lookup.md). -/

namespace Sys2Proof.Machine

/-- `SYMAT` (R70). -/
def execSymat (v : Value) (s : State) : Host.Outcome State Fault Refusal := readEntry v s

/-- The value of a character, or `InvalidCharacter` (R71). -/
def lookup (rom : Value → CharCode) (c : CharCode) : Except CodecError Result :=
  match indexOf rom c with
  | some v => .ok (.value v)
  | none => .error (.invalidCharacter c)

/-- `IDXOF` (R71). -/
def execIdxof (c : CharCode) (s : State) : Host.Outcome State Fault Refusal := conclude (lookup (romRead s.mem) c) s

/-- `BPC` (R72). -/
def execBpc (s : State) : Host.Outcome State Fault Refusal := returnOk (.number (readBitsPerChar s)) s

end Sys2Proof.Machine
end

