-- ==== Sys2Proof/Machine/Reserved.lean ====
section
/-! DEFINITION. The reserved op-select codes: the request has no step and no response (30_encoding.md R60). -/

namespace Sys2Proof.Machine

def execReserved101 (_s : State) : Host.Outcome State Fault Refusal := .refused (.reservedOperation 0b101#3)

def execReserved110 (_s : State) : Host.Outcome State Fault Refusal := .refused (.reservedOperation 0b110#3)

def execReserved111 (_s : State) : Host.Outcome State Fault Refusal := .refused (.reservedOperation 0b111#3)

end Sys2Proof.Machine
end

