-- ==== Sys2Proof/Machine/RomEntries.lean ====
section
/-! DEFINITION. The rows of kind rom_entry: one ROM access each, `MemRead(addr, 1) = ROM[addr]` (00_scope.md R6), which
reads exactly one entry (20_memory.md R35); the symbol read is delivered as the result. That a ROM entry's value word can
be presented at all is the model's choice (log 4). -/

namespace Sys2Proof.Machine

def execRom00 (s : State) : Host.Outcome State Fault Refusal := readEntry 0#6 s
def execRom01 (s : State) : Host.Outcome State Fault Refusal := readEntry 1#6 s
def execRom02 (s : State) : Host.Outcome State Fault Refusal := readEntry 2#6 s
def execRom03 (s : State) : Host.Outcome State Fault Refusal := readEntry 3#6 s
def execRom04 (s : State) : Host.Outcome State Fault Refusal := readEntry 4#6 s
def execRom05 (s : State) : Host.Outcome State Fault Refusal := readEntry 5#6 s
def execRom06 (s : State) : Host.Outcome State Fault Refusal := readEntry 6#6 s
def execRom07 (s : State) : Host.Outcome State Fault Refusal := readEntry 7#6 s
def execRom08 (s : State) : Host.Outcome State Fault Refusal := readEntry 8#6 s
def execRom09 (s : State) : Host.Outcome State Fault Refusal := readEntry 9#6 s
def execRom10 (s : State) : Host.Outcome State Fault Refusal := readEntry 10#6 s
def execRom11 (s : State) : Host.Outcome State Fault Refusal := readEntry 11#6 s
def execRom12 (s : State) : Host.Outcome State Fault Refusal := readEntry 12#6 s
def execRom13 (s : State) : Host.Outcome State Fault Refusal := readEntry 13#6 s
def execRom14 (s : State) : Host.Outcome State Fault Refusal := readEntry 14#6 s
def execRom15 (s : State) : Host.Outcome State Fault Refusal := readEntry 15#6 s
def execRom16 (s : State) : Host.Outcome State Fault Refusal := readEntry 16#6 s
def execRom17 (s : State) : Host.Outcome State Fault Refusal := readEntry 17#6 s
def execRom18 (s : State) : Host.Outcome State Fault Refusal := readEntry 18#6 s
def execRom19 (s : State) : Host.Outcome State Fault Refusal := readEntry 19#6 s
def execRom20 (s : State) : Host.Outcome State Fault Refusal := readEntry 20#6 s
def execRom21 (s : State) : Host.Outcome State Fault Refusal := readEntry 21#6 s
def execRom22 (s : State) : Host.Outcome State Fault Refusal := readEntry 22#6 s
def execRom23 (s : State) : Host.Outcome State Fault Refusal := readEntry 23#6 s
def execRom24 (s : State) : Host.Outcome State Fault Refusal := readEntry 24#6 s
def execRom25 (s : State) : Host.Outcome State Fault Refusal := readEntry 25#6 s
def execRom26 (s : State) : Host.Outcome State Fault Refusal := readEntry 26#6 s
def execRom27 (s : State) : Host.Outcome State Fault Refusal := readEntry 27#6 s
def execRom28 (s : State) : Host.Outcome State Fault Refusal := readEntry 28#6 s
def execRom29 (s : State) : Host.Outcome State Fault Refusal := readEntry 29#6 s
def execRom30 (s : State) : Host.Outcome State Fault Refusal := readEntry 30#6 s
def execRom31 (s : State) : Host.Outcome State Fault Refusal := readEntry 31#6 s
def execRom32 (s : State) : Host.Outcome State Fault Refusal := readEntry 32#6 s
def execRom33 (s : State) : Host.Outcome State Fault Refusal := readEntry 33#6 s
def execRom34 (s : State) : Host.Outcome State Fault Refusal := readEntry 34#6 s
def execRom35 (s : State) : Host.Outcome State Fault Refusal := readEntry 35#6 s
def execRom36 (s : State) : Host.Outcome State Fault Refusal := readEntry 36#6 s
def execRom37 (s : State) : Host.Outcome State Fault Refusal := readEntry 37#6 s
def execRom38 (s : State) : Host.Outcome State Fault Refusal := readEntry 38#6 s
def execRom39 (s : State) : Host.Outcome State Fault Refusal := readEntry 39#6 s
def execRom40 (s : State) : Host.Outcome State Fault Refusal := readEntry 40#6 s
def execRom41 (s : State) : Host.Outcome State Fault Refusal := readEntry 41#6 s
def execRom42 (s : State) : Host.Outcome State Fault Refusal := readEntry 42#6 s
def execRom43 (s : State) : Host.Outcome State Fault Refusal := readEntry 43#6 s
def execRom44 (s : State) : Host.Outcome State Fault Refusal := readEntry 44#6 s
def execRom45 (s : State) : Host.Outcome State Fault Refusal := readEntry 45#6 s
def execRom46 (s : State) : Host.Outcome State Fault Refusal := readEntry 46#6 s
def execRom47 (s : State) : Host.Outcome State Fault Refusal := readEntry 47#6 s
def execRom48 (s : State) : Host.Outcome State Fault Refusal := readEntry 48#6 s
def execRom49 (s : State) : Host.Outcome State Fault Refusal := readEntry 49#6 s
def execRom50 (s : State) : Host.Outcome State Fault Refusal := readEntry 50#6 s
def execRom51 (s : State) : Host.Outcome State Fault Refusal := readEntry 51#6 s
def execRom52 (s : State) : Host.Outcome State Fault Refusal := readEntry 52#6 s
def execRom53 (s : State) : Host.Outcome State Fault Refusal := readEntry 53#6 s
def execRom54 (s : State) : Host.Outcome State Fault Refusal := readEntry 54#6 s
def execRom55 (s : State) : Host.Outcome State Fault Refusal := readEntry 55#6 s
def execRom56 (s : State) : Host.Outcome State Fault Refusal := readEntry 56#6 s
def execRom57 (s : State) : Host.Outcome State Fault Refusal := readEntry 57#6 s
def execRom58 (s : State) : Host.Outcome State Fault Refusal := readEntry 58#6 s
def execRom59 (s : State) : Host.Outcome State Fault Refusal := readEntry 59#6 s
def execRom60 (s : State) : Host.Outcome State Fault Refusal := readEntry 60#6 s
def execRom61 (s : State) : Host.Outcome State Fault Refusal := readEntry 61#6 s
def execRom62 (s : State) : Host.Outcome State Fault Refusal := readEntry 62#6 s
def execRom63 (s : State) : Host.Outcome State Fault Refusal := readEntry 63#6 s

end Sys2Proof.Machine
end

