-- ==== Sys2Proof/Machine/Status.lean ====
section
/-! DEFINITION. The rows of kind status_code: the primitives `return OK(x)` and `raise E(info)` of 00_scope.md R6, each
ending a transaction with the response whose `STATUS` the row names (30_encoding.md R57, 60_exceptions.md R110 to R116).
That a response word can be presented as an instruction is the model's choice (log 3). -/

namespace Sys2Proof.Machine

def execStatusOk (r : Result) (s : State) : Host.Outcome State Fault Refusal := returnOk r s

def execStatusInvalidCharacter (ch : CharCode) (s : State) : Host.Outcome State Fault Refusal :=
  raiseError (.invalidCharacter ch) s

def execStatusInvalidBit (ch : CharCode) (s : State) : Host.Outcome State Fault Refusal := raiseError (.invalidBit ch) s

def execStatusInvalidLength (len : Nat) (s : State) : Host.Outcome State Fault Refusal :=
  raiseError (.invalidLength len) s

end Sys2Proof.Machine
end

