-- ==== Sys2Proof/Machine/Dispatch.lean ====
section
/-! DEFINITION. Dispatch: one arm per constructor of Instr. -/

namespace Sys2Proof.Machine

def exec (i : Instr) (s : State) : Host.Outcome State Fault Refusal :=
  match i with
  | .symat v => Sys2Proof.Machine.execSymat v s
  | .idxof c => Sys2Proof.Machine.execIdxof c s
  | .dec cs => Sys2Proof.Machine.execDec cs s
  | .enc cs => Sys2Proof.Machine.execEnc cs s
  | .bpc => Sys2Proof.Machine.execBpc s
  | .reserved101 => Sys2Proof.Machine.execReserved101 s
  | .reserved110 => Sys2Proof.Machine.execReserved110 s
  | .reserved111 => Sys2Proof.Machine.execReserved111 s
  | .statusOk r => Sys2Proof.Machine.execStatusOk r s
  | .statusInvalidCharacter ch => Sys2Proof.Machine.execStatusInvalidCharacter ch s
  | .statusInvalidBit ch => Sys2Proof.Machine.execStatusInvalidBit ch s
  | .statusInvalidLength len => Sys2Proof.Machine.execStatusInvalidLength len s
  | .rom00 => Sys2Proof.Machine.execRom00 s
  | .rom01 => Sys2Proof.Machine.execRom01 s
  | .rom02 => Sys2Proof.Machine.execRom02 s
  | .rom03 => Sys2Proof.Machine.execRom03 s
  | .rom04 => Sys2Proof.Machine.execRom04 s
  | .rom05 => Sys2Proof.Machine.execRom05 s
  | .rom06 => Sys2Proof.Machine.execRom06 s
  | .rom07 => Sys2Proof.Machine.execRom07 s
  | .rom08 => Sys2Proof.Machine.execRom08 s
  | .rom09 => Sys2Proof.Machine.execRom09 s
  | .rom10 => Sys2Proof.Machine.execRom10 s
  | .rom11 => Sys2Proof.Machine.execRom11 s
  | .rom12 => Sys2Proof.Machine.execRom12 s
  | .rom13 => Sys2Proof.Machine.execRom13 s
  | .rom14 => Sys2Proof.Machine.execRom14 s
  | .rom15 => Sys2Proof.Machine.execRom15 s
  | .rom16 => Sys2Proof.Machine.execRom16 s
  | .rom17 => Sys2Proof.Machine.execRom17 s
  | .rom18 => Sys2Proof.Machine.execRom18 s
  | .rom19 => Sys2Proof.Machine.execRom19 s
  | .rom20 => Sys2Proof.Machine.execRom20 s
  | .rom21 => Sys2Proof.Machine.execRom21 s
  | .rom22 => Sys2Proof.Machine.execRom22 s
  | .rom23 => Sys2Proof.Machine.execRom23 s
  | .rom24 => Sys2Proof.Machine.execRom24 s
  | .rom25 => Sys2Proof.Machine.execRom25 s
  | .rom26 => Sys2Proof.Machine.execRom26 s
  | .rom27 => Sys2Proof.Machine.execRom27 s
  | .rom28 => Sys2Proof.Machine.execRom28 s
  | .rom29 => Sys2Proof.Machine.execRom29 s
  | .rom30 => Sys2Proof.Machine.execRom30 s
  | .rom31 => Sys2Proof.Machine.execRom31 s
  | .rom32 => Sys2Proof.Machine.execRom32 s
  | .rom33 => Sys2Proof.Machine.execRom33 s
  | .rom34 => Sys2Proof.Machine.execRom34 s
  | .rom35 => Sys2Proof.Machine.execRom35 s
  | .rom36 => Sys2Proof.Machine.execRom36 s
  | .rom37 => Sys2Proof.Machine.execRom37 s
  | .rom38 => Sys2Proof.Machine.execRom38 s
  | .rom39 => Sys2Proof.Machine.execRom39 s
  | .rom40 => Sys2Proof.Machine.execRom40 s
  | .rom41 => Sys2Proof.Machine.execRom41 s
  | .rom42 => Sys2Proof.Machine.execRom42 s
  | .rom43 => Sys2Proof.Machine.execRom43 s
  | .rom44 => Sys2Proof.Machine.execRom44 s
  | .rom45 => Sys2Proof.Machine.execRom45 s
  | .rom46 => Sys2Proof.Machine.execRom46 s
  | .rom47 => Sys2Proof.Machine.execRom47 s
  | .rom48 => Sys2Proof.Machine.execRom48 s
  | .rom49 => Sys2Proof.Machine.execRom49 s
  | .rom50 => Sys2Proof.Machine.execRom50 s
  | .rom51 => Sys2Proof.Machine.execRom51 s
  | .rom52 => Sys2Proof.Machine.execRom52 s
  | .rom53 => Sys2Proof.Machine.execRom53 s
  | .rom54 => Sys2Proof.Machine.execRom54 s
  | .rom55 => Sys2Proof.Machine.execRom55 s
  | .rom56 => Sys2Proof.Machine.execRom56 s
  | .rom57 => Sys2Proof.Machine.execRom57 s
  | .rom58 => Sys2Proof.Machine.execRom58 s
  | .rom59 => Sys2Proof.Machine.execRom59 s
  | .rom60 => Sys2Proof.Machine.execRom60 s
  | .rom61 => Sys2Proof.Machine.execRom61 s
  | .rom62 => Sys2Proof.Machine.execRom62 s
  | .rom63 => Sys2Proof.Machine.execRom63 s

end Sys2Proof.Machine
end

