-- ==== Sys2Proof/Machine/Step.lean ====
section
/-! DEFINITION. One step: the block serves the first request at its port, or is idle. -/

namespace Sys2Proof.Machine

/-- Nothing presented: the block is idle and nothing changes (60_exceptions.md R123, log 6). Otherwise the first request is
taken off the port and served, as one indivisible step (00_scope.md R8); bytes that are no request are refused (log 7). -/
def step (s : State) : Host.Outcome State Fault Refusal :=
  match s.inbox with
  | [] => .next s
  | b :: bs =>
    match decode (b :: bs) with
    | .error e => .refused (.undecodable e)
    | .ok (i, rest) => exec i { s with inbox := rest }

/-- The state with the instruction of a table word presented at the port, and nothing else there (log 15). -/
def State.withFetchWord (s : State) (nbits w : Nat) : State := { s with inbox := tableWordBytes nbits w }

end Sys2Proof.Machine
end

