-- ==== Sys2Proof/Machine/Flags.lean ====
section
/-! DEFINITION. The fields of a response. The block has no flags (10_state.md R18): the outcome of a transaction is a
field of that transaction's response and of nothing else. -/

namespace Sys2Proof.Machine

/-- What an error response carries in `INFO` (30_encoding.md R57). -/
inductive Info where
  | ch (c : CharCode)
  | len (n : Nat)
  deriving DecidableEq, Repr

/-- `STATUS[1:0]` (30_encoding.md R57, 60_exceptions.md R114). -/
def statusCode : Response → BitVec 2
  | .ok _ => 0b00#2
  | .error (.invalidCharacter _) => 0b01#2
  | .error (.invalidBit _) => 0b10#2
  | .error (.invalidLength _) => 0b11#2

/-- `INFO`: absent when OK (30_encoding.md R57). -/
def infoField : Response → Option Info
  | .ok _ => none
  | .error (.invalidCharacter c) => some (.ch c)
  | .error (.invalidBit c) => some (.ch c)
  | .error (.invalidLength n) => some (.len n)

/-- `RESULT`: absent on an error (30_encoding.md R57). -/
def resultField : Response → Option Result
  | .ok r => some r
  | .error _ => none

end Sys2Proof.Machine
end

