-- ==== Sys2Proof/Safety.lean ====
section
/-! DEFINITION. The terms claims use: what a well-kept state is, what a request is, what a run is. -/

namespace Sys2Proof.Machine

/-- The five operations a requester can present (30_encoding.md R56, 60_exceptions.md R124). -/
inductive IsRequest : Instr → Prop where
  | symat (v : Value) : IsRequest (.symat v)
  | idxof (c : CharCode) : IsRequest (.idxof c)
  | dec (cs : List CharCode) : IsRequest (.dec cs)
  | enc (cs : List CharCode) : IsRequest (.enc cs)
  | bpc : IsRequest .bpc

/-- The state with one more response at the response port, everything else as it was: what a transaction leaves
(60_exceptions.md R116, 70_reset_and_hazards.md R133). -/
def State.answered (s : State) (r : Response) : State := { mem := s.mem, inbox := s.inbox, outbox := s.outbox ++ [r] }

/-- The ROM holds the table it has at reset (10_state.md R11, R23 (a)). -/
def RomIntact (m : Memory) : Prop := ∀ v : Value, romRead m v = romReset v

/-- The entries are pairwise distinct (10_state.md R11). Claims that assume only this hold for every alphabet. -/
def RomDistinct (m : Memory) : Prop := ∀ u v : Value, romRead m u = romRead m v → u = v

/-- The character is an entry of the ROM (30_encoding.md R59 (a)). -/
def InRom (m : Memory) (c : CharCode) : Prop := ∃ v : Value, romRead m v = c

/-- What every step keeps: the ROM in canonical form and with its table, and every response delivered one the block can
give (WellFormed.lean). -/
structure Inv (s : State) : Prop where
  canonical : Memory.wf s.mem = true
  intact : RomIntact s.mem
  responses : ∀ r ∈ s.outbox, r.wf = true

/-- A safe outcome: a next state that meets the invariant, or a refusal, in which nothing happened. -/
def SafeOutcome : Host.Outcome State Fault Refusal → Prop
  | .next t => Inv t
  | .fault _ => False
  | .refused _ => True

/-- A run of `n` steps, stopping at the first that has no next state (70_reset_and_hazards.md R133). It is the host's
`Host.Core.run` of this machine (`host_run_eq`, Laws/Step.lean). -/
def runSteps : Nat → State → Host.Outcome State Fault Refusal
  | 0, s => .next s
  | n + 1, s =>
    match step s with
    | .next t => runSteps n t
    | .fault r => .fault r
    | .refused r => .refused r

/-- A safe run of `n` steps. -/
def SafeRun (n : Nat) (s : State) : Prop := SafeOutcome (runSteps n s)

end Sys2Proof.Machine
end

