-- ==== Sys2Proof/Certificates/Slice0/Obligations.lean ====
section
/-! DEFINITION. The statements about the block. `s.answered r` is `s` with the response `r` at the response port and
everything else as it was, so `exec i s = .next (s.answered r)` says that `i` completes, what it answers and that the ROM
and the request port are unchanged. Where a statement is about every alphabet it assumes only that the ROM's entries are
distinct (`RomDistinct`) or nothing at all; where it names symbols it assumes that the ROM holds its table
(`RomIntact`, which `InvariantHoldsAtReset` and `EveryStepKeepsTheInvariant` give for every run). -/

open Sys2Proof Sys2Proof.Machine

/-! The ROM. -/

/-- 10_state.md R24 with the codes of 30_encoding.md R52: the ROM after reset, entry by entry; the four entries of the OPEN
parameter are the letters `w x y z` in some order that does not begin with `w`. -/
def Obligations.ResetRomIsTheAlphabetTable : Prop :=
  (∀ v : Value, v.toNat ≤ 25 → (romRead State.reset.mem v).toNat = 0x41 + v.toNat) ∧
  (∀ v : Value, 26 ≤ v.toNat → v.toNat ≤ 47 → (romRead State.reset.mem v).toNat = 0x61 + (v.toNat - 26)) ∧
  [romRead State.reset.mem 48#6, romRead State.reset.mem 49#6, romRead State.reset.mem 50#6,
    romRead State.reset.mem 51#6].Perm [0x77#8, 0x78#8, 0x79#8, 0x7A#8] ∧
  romRead State.reset.mem 48#6 ≠ 0x77#8 ∧
  (∀ v : Value, 52 ≤ v.toNat → v.toNat ≤ 61 → (romRead State.reset.mem v).toNat = 0x30 + (v.toNat - 52)) ∧
  romRead State.reset.mem 62#6 = 0x5F#8 ∧ romRead State.reset.mem 63#6 = 0x2D#8

/-- 10_state.md R14: the model's instances are exactly the permitted ones. Every choice gives a permutation of `w x y z`
whose first element is not `w`, different choices give different ones, and every such permutation is some choice. -/
def Obligations.TailChoicesAreExactlyThePermittedPermutations : Prop :=
  (∀ k : Fin 18,
    [(romTail k).t0, (romTail k).t1, (romTail k).t2, (romTail k).t3].Perm [0x77#8, 0x78#8, 0x79#8, 0x7A#8] ∧
    (romTail k).t0 ≠ 0x77#8) ∧
  (∀ j k : Fin 18, romTail j = romTail k → j = k) ∧
  (∀ t : Tail, [t.t0, t.t1, t.t2, t.t3].Perm [0x77#8, 0x78#8, 0x79#8, 0x7A#8] → t.t0 ≠ 0x77#8 →
    ∃ k : Fin 18, romTail k = t)

/-- 10_state.md R15 and 30_encoding.md R59: the table's entries are distinct, its symbols are the letters, the digits,
`_` and `-`, and 192 codes are none. -/
def Obligations.TheAlphabetIsABijectionOntoTheSymbols : Prop :=
  ∀ m : Memory, RomIntact m →
    (∀ u v : Value, romRead m u = romRead m v → u = v) ∧
    (∀ c : CharCode, InRom m c ↔
      (0x41 ≤ c.toNat ∧ c.toNat ≤ 0x5A) ∨ (0x61 ≤ c.toNat ∧ c.toNat ≤ 0x7A) ∨ (0x30 ≤ c.toNat ∧ c.toNat ≤ 0x39) ∨
      c = 0x5F#8 ∨ c = 0x2D#8) ∧
    Nat.card (Subtype (InRom m)) = 64 ∧
    Nat.card (Subtype (fun c : CharCode => ¬ InRom m c)) = 192

/-! The single-item operations. -/

/-- 40_alphabet_lookup.md R70: `SYMAT` answers with the entry, in every state and for every value; with the table in the
ROM, the corner values, and every answer one of the 64 symbols (`isSymbol`, WellFormed.lean: letters, digits, `_` and `-` by
code); and `IDXOF` of the answer gives the value back. -/
def Obligations.SymatAnswersTheEntry : Prop :=
  (∀ (s : State) (v : Value), exec (.symat v) s = .next (s.answered (.ok (.char (romRead s.mem v))))) ∧
  (∀ s : State, RomIntact s.mem →
    exec (.symat 0#6) s = .next (s.answered (.ok (.char 0x41#8))) ∧
    exec (.symat 1#6) s = .next (s.answered (.ok (.char 0x42#8))) ∧
    exec (.symat 62#6) s = .next (s.answered (.ok (.char 0x5F#8))) ∧
    exec (.symat 63#6) s = .next (s.answered (.ok (.char 0x2D#8))) ∧
    exec (.symat 48#6) s = .next (s.answered (.ok (.char (romTail Config.romTailChoice).t0))) ∧
    exec (.symat 49#6) s = .next (s.answered (.ok (.char (romTail Config.romTailChoice).t1))) ∧
    exec (.symat 50#6) s = .next (s.answered (.ok (.char (romTail Config.romTailChoice).t2))) ∧
    exec (.symat 51#6) s = .next (s.answered (.ok (.char (romTail Config.romTailChoice).t3))) ∧
    (∀ v : Value, isSymbol (romRead s.mem v) = true)) ∧
  (∀ (s : State) (v : Value), RomDistinct s.mem →
    exec (.idxof (romRead s.mem v)) s = .next (s.answered (.ok (.value v))))

/-- 40_alphabet_lookup.md R71: `IDXOF` of a symbol answers its value, of any other character the error with that very
character; with the corner characters of the rule. -/
def Obligations.IdxofAnswersTheValueOrTheError : Prop :=
  (∀ (s : State) (c : CharCode) (v : Value), RomDistinct s.mem → romRead s.mem v = c →
    exec (.idxof c) s = .next (s.answered (.ok (.value v)))) ∧
  (∀ (s : State) (c : CharCode), (∀ v : Value, romRead s.mem v ≠ c) →
    exec (.idxof c) s = .next (s.answered (.error (.invalidCharacter c)))) ∧
  (∀ s : State, RomIntact s.mem →
    exec (.idxof 0x61#8) s = .next (s.answered (.ok (.value 26#6))) ∧
    exec (.idxof 0x41#8) s = .next (s.answered (.ok (.value 0#6))) ∧
    exec (.idxof 0x42#8) s = .next (s.answered (.ok (.value 1#6))) ∧
    exec (.idxof 0x30#8) s = .next (s.answered (.ok (.value 52#6))) ∧
    exec (.idxof 0x31#8) s = .next (s.answered (.ok (.value 53#6))) ∧
    exec (.idxof 0x5F#8) s = .next (s.answered (.ok (.value 62#6))) ∧
    exec (.idxof 0x2D#8) s = .next (s.answered (.ok (.value 63#6))) ∧
    (∀ c : CharCode, c ∈ [0x20#8, 0x21#8, 0x2B#8, 0x2F#8, 0x3D#8, 0x00#8] ∨ 0x80 ≤ c.toNat →
      exec (.idxof c) s = .next (s.answered (.error (.invalidCharacter c)))))

/-- 40_alphabet_lookup.md R72 and 10_state.md R19: `BPC` answers 6 in every state, and the constant reads 6. -/
def Obligations.BpcAnswersSix : Prop :=
  ∀ s : State, exec .bpc s = .next (s.answered (.ok (.number 6))) ∧ readBitsPerChar s = 6

/-! The bit-group datapath. -/

/-- 41_bit_groups.md R80, R81: the two bit-characters, the reading of each, and no reading of any other character; `ENC`, the
operation that calls `BITVAL`, raises `InvalidBit` with the one character of its input that has no reading. (Which one it
names when there are several is no part of R81: `EncErrorsAndTheirPayloads`.) -/
def Obligations.BitCharactersAndBits : Prop :=
  bitch false = 0x30#8 ∧ bitch true = 0x31#8 ∧ bitval 0x30#8 = some false ∧ bitval 0x31#8 = some true ∧
  (∀ c : CharCode, c ≠ 0x30#8 → c ≠ 0x31#8 → bitval c = none ∧
    ∀ (s : State) (pre post : List CharCode), (∀ d ∈ pre ++ post, d = 0x30#8 ∨ d = 0x31#8) →
      exec (.enc (pre ++ c :: post)) s = .next (s.answered (.error (.invalidBit c)))) ∧
  (∀ b : Bool, bitval (bitch b) = some b)

/-- 41_bit_groups.md R82: six bit-characters, position `k` carrying bit `5 - k`; and the rule's corner cases. -/
def Obligations.GroupRendererIsMsbFirst : Prop :=
  (∀ v : Value, (bits6 v).length = 6 ∧
    ∀ k : Nat, k ≤ 5 → (bits6 v)[k]? = some (if v.getLsbD (5 - k) then 0x31#8 else 0x30#8)) ∧
  bits6 0#6 = [0x30#8, 0x30#8, 0x30#8, 0x30#8, 0x30#8, 0x30#8] ∧ bits6 1#6 = [0x30#8, 0x30#8, 0x30#8, 0x30#8, 0x30#8, 0x31#8] ∧
  bits6 32#6 = [0x31#8, 0x30#8, 0x30#8, 0x30#8, 0x30#8, 0x30#8] ∧ bits6 63#6 = [0x31#8, 0x31#8, 0x31#8, 0x31#8, 0x31#8, 0x31#8]

/-- 41_bit_groups.md R83: the positional sum, leftmost bit of weight 32; and the rule's corner cases. -/
def Obligations.GroupParserIsPositional : Prop :=
  (∀ g0 g1 g2 g3 g4 g5 : Bool,
    (val6 g0 g1 g2 g3 g4 g5).toNat =
      32 * g0.toNat + 16 * g1.toNat + 8 * g2.toNat + 4 * g3.toNat + 2 * g4.toNat + g5.toNat ∧
    (val6 g0 g1 g2 g3 g4 g5).getLsbD 5 = g0 ∧ (val6 g0 g1 g2 g3 g4 g5).getLsbD 4 = g1 ∧
    (val6 g0 g1 g2 g3 g4 g5).getLsbD 3 = g2 ∧ (val6 g0 g1 g2 g3 g4 g5).getLsbD 2 = g3 ∧
    (val6 g0 g1 g2 g3 g4 g5).getLsbD 1 = g4 ∧ (val6 g0 g1 g2 g3 g4 g5).getLsbD 0 = g5) ∧
  val6 false false false false false false = 0#6 ∧ val6 false false false false false true = 1#6 ∧
  val6 true false false false false false = 32#6 ∧ val6 true true true true true true = 63#6

/-- 41_bit_groups.md, group laws: rendering and parsing invert each other, and rendering keeps the order, `0` before `1`. -/
def Obligations.GroupRenderingIsAnOrderedBijection : Prop :=
  (∀ v : Value,
    val6 (v.getLsbD 5) (v.getLsbD 4) (v.getLsbD 3) (v.getLsbD 2) (v.getLsbD 1) (v.getLsbD 0) = v) ∧
  (∀ g0 g1 g2 g3 g4 g5 : Bool, bits6 (val6 g0 g1 g2 g3 g4 g5) =
    [bitch g0, bitch g1, bitch g2, bitch g3, bitch g4, bitch g5]) ∧
  (∀ u v : Value, bits6 u = bits6 v → u = v) ∧
  (∀ u v : Value, u < v ↔ List.Lex (fun a b : CharCode => a < b) (bits6 u) (bits6 v))

/-! The decoder. -/

/-- 42_decode.md R90: `DEC` of the symbols of some values answers the values' groups, the rightmost symbol's first; `DEC` of
anything else answers an error naming one of its characters that is no symbol. -/
def Obligations.DecRendersSymbolsRightToLeft : Prop :=
  (∀ (s : State) (vals : List Value), RomDistinct s.mem →
    exec (.dec (vals.map (romRead s.mem))) s = .next (s.answered (.ok (.bitString (vals.reverse.flatMap bits6))))) ∧
  (∀ (s : State) (cs : List CharCode), (∃ c ∈ cs, ¬ InRom s.mem c) →
    ∃ ch ∈ cs, ¬ InRom s.mem ch ∧ exec (.dec cs) s = .next (s.answered (.error (.invalidCharacter ch))))

/-- 42_decode.md R92: `DEC` raises `InvalidCharacter(ch)` exactly when `ch` is its rightmost character that is no symbol, and
raises no other error. -/
def Obligations.DecReportsTheRightmostNonSymbol : Prop :=
  (∀ (s : State) (cs : List CharCode) (ch : CharCode),
    exec (.dec cs) s = .next (s.answered (.error (.invalidCharacter ch))) ↔
      ∃ pre post, cs = pre ++ ch :: post ∧ ¬ InRom s.mem ch ∧ ∀ d ∈ post, InRom s.mem d) ∧
  (∀ (s : State) (cs : List CharCode) (ch : CharCode) (n : Nat),
    exec (.dec cs) s ≠ .next (s.answered (.error (.invalidBit ch))) ∧
    exec (.dec cs) s ≠ .next (s.answered (.error (.invalidLength n))))

/-- 20_memory.md, the position law: bit position `p` of `DEC`'s answer holds bit `5 - p mod 6` of the value of the symbol at
position `n - 1 - p div 6`. -/
def Obligations.DecPositionLaw : Prop :=
  ∀ (s : State) (cs : List CharCode), RomDistinct s.mem → (∀ c ∈ cs, InRom s.mem c) →
    ∃ b : List CharCode, exec (.dec cs) s = .next (s.answered (.ok (.bitString b))) ∧
      b.length = 6 * cs.length ∧
      ∀ (p : Nat) (v : Value), p < b.length → cs[cs.length - 1 - p / 6]? = some (romRead s.mem v) →
        b[p]? = some (if v.getLsbD (5 - p % 6) then 0x31#8 else 0x30#8)

/-- 42_decode.md, laws of DEC (d): decoding a sequence in one piece answers the parts' answers in the opposite order, for
every alphabet. -/
def Obligations.DecReversesTheOrderOfParts : Prop :=
  ∀ (s : State) (cs ds : List CharCode), (∀ c ∈ cs, InRom s.mem c) → (∀ d ∈ ds, InRom s.mem d) →
    ∃ a b : List CharCode,
      exec (.dec cs) s = .next (s.answered (.ok (.bitString a))) ∧
      exec (.dec ds) s = .next (s.answered (.ok (.bitString b))) ∧
      exec (.dec (cs ++ ds)) s = .next (s.answered (.ok (.bitString (b ++ a))))

/-! The encoder. -/

/-- 43_encode.md R100: `ENC` of `6 n` bit-characters answers `n` symbols, the symbol at position `i` being that of the group
that starts at `6 (n - 1 - i)`; in every other case it answers no clip string. -/
def Obligations.EncMapsGroupsRightToLeft : Prop :=
  (∀ (s : State) (n : Nat) (b : List CharCode), b.length = 6 * n → (∀ c ∈ b, c = 0x30#8 ∨ c = 0x31#8) →
    ∃ t : List CharCode, exec (.enc b) s = .next (s.answered (.ok (.clipString t))) ∧ t.length = n ∧
      ∀ i : Nat, i < n → t[i]? = some (romRead s.mem
        (val6 (b[6 * (n - 1 - i)]? == some 0x31#8) (b[6 * (n - 1 - i) + 1]? == some 0x31#8)
          (b[6 * (n - 1 - i) + 2]? == some 0x31#8) (b[6 * (n - 1 - i) + 3]? == some 0x31#8)
          (b[6 * (n - 1 - i) + 4]? == some 0x31#8) (b[6 * (n - 1 - i) + 5]? == some 0x31#8)))) ∧
  (∀ (s : State) (b t : List CharCode), (∃ c ∈ b, c ≠ 0x30#8 ∧ c ≠ 0x31#8) ∨ b.length % 6 ≠ 0 →
    exec (.enc b) s ≠ .next (s.answered (.ok (.clipString t))))

/-- 43_encode.md R101: the characters are checked before the length. An input with a character that is no bit-character
answers `InvalidBit`, whatever its length and whatever follows. That the payload is the leftmost such character is R102 (a)
under the spec's decision D10 (log 11), not R101. -/
def Obligations.EncChecksCharactersBeforeLength : Prop :=
  ∀ (s : State) (pre post : List CharCode) (ch : CharCode),
    (∀ d ∈ pre, d = 0x30#8 ∨ d = 0x31#8) → ch ≠ 0x30#8 → ch ≠ 0x31#8 →
    exec (.enc (pre ++ ch :: post)) s = .next (s.answered (.error (.invalidBit ch)))

/-- 43_encode.md R102: exactly when `ENC` raises which error with which payload; it never raises `InvalidCharacter`. -/
def Obligations.EncErrorsAndTheirPayloads : Prop :=
  (∀ (s : State) (b : List CharCode) (ch : CharCode),
    exec (.enc b) s = .next (s.answered (.error (.invalidBit ch))) ↔
      ∃ pre post, b = pre ++ ch :: post ∧ (∀ d ∈ pre, d = 0x30#8 ∨ d = 0x31#8) ∧ ch ≠ 0x30#8 ∧ ch ≠ 0x31#8) ∧
  (∀ (s : State) (b : List CharCode) (n : Nat),
    exec (.enc b) s = .next (s.answered (.error (.invalidLength n))) ↔
      (∀ c ∈ b, c = 0x30#8 ∨ c = 0x31#8) ∧ n = b.length ∧ b.length % 6 ≠ 0) ∧
  (∀ (s : State) (b : List CharCode) (ch : CharCode),
    exec (.enc b) s ≠ .next (s.answered (.error (.invalidCharacter ch))))

/-- 43_encode.md, laws of ENC (d): encoding two bit strings as one answers the parts' answers in the opposite order. -/
def Obligations.EncReversesTheOrderOfParts : Prop :=
  ∀ (s : State) (a b : List CharCode), (∀ c ∈ a, c = 0x30#8 ∨ c = 0x31#8) → (∀ c ∈ b, c = 0x30#8 ∨ c = 0x31#8) →
    a.length % 6 = 0 → b.length % 6 = 0 →
    ∃ t u : List CharCode,
      exec (.enc a) s = .next (s.answered (.ok (.clipString t))) ∧
      exec (.enc b) s = .next (s.answered (.ok (.clipString u))) ∧
      exec (.enc (a ++ b)) s = .next (s.answered (.ok (.clipString (u ++ t))))

/-! Both engines. -/

/-- 43_encode.md R106: decoding symbols and encoding the answer gives the symbols back, and encoding bit-characters in whole
groups and decoding the answer gives the bit-characters back; for every alphabet, and whatever happened between the two
requests. -/
def Obligations.EncoderAndDecoderInvertEachOther : Prop :=
  (∀ (s s' : State) (cs : List CharCode), RomDistinct s.mem → s'.mem = s.mem → (∀ c ∈ cs, InRom s.mem c) →
    ∃ b : List CharCode, exec (.dec cs) s = .next (s.answered (.ok (.bitString b))) ∧
      exec (.enc b) s' = .next (s'.answered (.ok (.clipString cs)))) ∧
  (∀ (s s' : State) (b : List CharCode), RomDistinct s.mem → s'.mem = s.mem → b.length % 6 = 0 →
    (∀ c ∈ b, c = 0x30#8 ∨ c = 0x31#8) →
    ∃ cs : List CharCode, exec (.enc b) s = .next (s.answered (.ok (.clipString cs))) ∧
      exec (.dec cs) s' = .next (s'.answered (.ok (.bitString b))))

/-- 41_bit_groups.md R86, the length laws of the two engines. -/
def Obligations.AnswersHaveTheLawfulLength : Prop :=
  (∀ (s : State) (cs b : List CharCode), exec (.dec cs) s = .next (s.answered (.ok (.bitString b))) →
    b.length = 6 * cs.length) ∧
  (∀ (s : State) (b cs : List CharCode), exec (.enc b) s = .next (s.answered (.ok (.clipString cs))) →
    b.length % 6 = 0 ∧ cs.length = b.length / 6)

/-- 42_decode.md, laws of DEC (e), and 43_encode.md, laws of ENC (e): two inputs with one and the same result are one and
the same input. -/
def Obligations.EnginesAreInjectiveOnValidInputs : Prop :=
  (∀ (s : State) (cs ds b : List CharCode), exec (.dec cs) s = .next (s.answered (.ok (.bitString b))) →
    exec (.dec ds) s = .next (s.answered (.ok (.bitString b))) → cs = ds) ∧
  (∀ (s : State) (a b t : List CharCode), RomDistinct s.mem →
    exec (.enc a) s = .next (s.answered (.ok (.clipString t))) →
    exec (.enc b) s = .next (s.answered (.ok (.clipString t))) → a = b)

/-- 42_decode.md R94, 43_encode.md R105: the empty input gives an empty result, not an error, in every state. -/
def Obligations.EmptyInputsGiveEmptyResults : Prop :=
  ∀ s : State, exec (.dec []) s = .next (s.answered (.ok (.bitString []))) ∧
    exec (.enc []) s = .next (s.answered (.ok (.clipString [])))

/-- The source's worked examples, 95_test_vectors.md TS1 to TS9: `DEC "AB"` (42_decode.md R95) and `ENC "000001000000"`
(43_encode.md R107), which fix the direction of both reversals; `DEC "!"` (R92); `ENC "101"` and `ENC "102000"` (R102); the
empty inputs (R94, R105); `IDXOF 'A'` and `IDXOF 'B'` (R71); `BPC` (R72). -/
def Obligations.WorkedExamplesOfTheSource : Prop :=
  ∀ s : State, RomIntact s.mem →
    exec (.dec [0x41#8, 0x42#8]) s = .next (s.answered (.ok (.bitString
      [0x30#8, 0x30#8, 0x30#8, 0x30#8, 0x30#8, 0x31#8, 0x30#8, 0x30#8, 0x30#8, 0x30#8, 0x30#8, 0x30#8]))) ∧
    exec (.enc
      [0x30#8, 0x30#8, 0x30#8, 0x30#8, 0x30#8, 0x31#8, 0x30#8, 0x30#8, 0x30#8, 0x30#8, 0x30#8, 0x30#8]) s =
      .next (s.answered (.ok (.clipString [0x41#8, 0x42#8]))) ∧
    exec (.dec [0x21#8]) s = .next (s.answered (.error (.invalidCharacter 0x21#8))) ∧
    exec (.enc [0x31#8, 0x30#8, 0x31#8]) s = .next (s.answered (.error (.invalidLength 3))) ∧
    exec (.enc [0x31#8, 0x30#8, 0x32#8, 0x30#8, 0x30#8, 0x30#8]) s =
      .next (s.answered (.error (.invalidBit 0x32#8))) ∧
    exec (.dec []) s = .next (s.answered (.ok (.bitString []))) ∧
    exec (.enc []) s = .next (s.answered (.ok (.clipString []))) ∧
    exec (.idxof 0x41#8) s = .next (s.answered (.ok (.value 0#6))) ∧
    exec (.idxof 0x42#8) s = .next (s.answered (.ok (.value 1#6))) ∧
    exec .bpc s = .next (s.answered (.ok (.number 6)))

/-- 30_encoding.md, notation (derived identities): the single-item operations are the engines on one symbol. -/
def Obligations.EnginesOnOneSymbolAreTheLookups : Prop :=
  (∀ (s : State) (v : Value), exec (.enc (bits6 v)) s = .next (s.answered (.ok (.clipString [romRead s.mem v])))) ∧
  (∀ (s : State) (v : Value), RomDistinct s.mem →
    exec (.dec [romRead s.mem v]) s = .next (s.answered (.ok (.bitString (bits6 v)))))

/-- Two consequences of 30_encoding.md R61: a space, tab or line feed anywhere makes either engine answer an error, and the
two cases of a letter have different values. -/
def Obligations.WhitespaceIsAnErrorAndLetterCasesDiffer : Prop :=
  (∀ (s : State) (pre post : List CharCode) (w : CharCode), RomIntact s.mem → w ∈ [0x20#8, 0x09#8, 0x0A#8] →
    (∃ ch, exec (.dec (pre ++ w :: post)) s = .next (s.answered (.error (.invalidCharacter ch)))) ∧
    (∃ ch, exec (.enc (pre ++ w :: post)) s = .next (s.answered (.error (.invalidBit ch))))) ∧
  (∀ (s : State) (c : CharCode), RomIntact s.mem → 0x41 ≤ c.toNat → c.toNat ≤ 0x5A →
    ∃ u v : Value, exec (.idxof c) s = .next (s.answered (.ok (.value u))) ∧
      exec (.idxof (c + 0x20#8)) s = .next (s.answered (.ok (.value v))) ∧ u ≠ v)

/-! Responses. -/

/-- 60_exceptions.md R125: the complete table of outcomes of the five operations, in every state. -/
def Obligations.OutcomeTable : Prop :=
  ∀ s : State,
    (∀ v : Value, ∃ c, exec (.symat v) s = .next (s.answered (.ok (.char c)))) ∧
    (∀ c : CharCode,
      (InRom s.mem c → ∃ v, exec (.idxof c) s = .next (s.answered (.ok (.value v)))) ∧
      (¬ InRom s.mem c → exec (.idxof c) s = .next (s.answered (.error (.invalidCharacter c))))) ∧
    (∀ cs : List CharCode,
      ((∀ c ∈ cs, InRom s.mem c) → ∃ b, exec (.dec cs) s = .next (s.answered (.ok (.bitString b)))) ∧
      ((∃ c ∈ cs, ¬ InRom s.mem c) →
        ∃ ch, exec (.dec cs) s = .next (s.answered (.error (.invalidCharacter ch))))) ∧
    (∀ b : List CharCode,
      ((∀ c ∈ b, c = 0x30#8 ∨ c = 0x31#8) → b.length % 6 = 0 →
        ∃ t, exec (.enc b) s = .next (s.answered (.ok (.clipString t)))) ∧
      ((∃ c ∈ b, c ≠ 0x30#8 ∧ c ≠ 0x31#8) →
        ∃ ch, exec (.enc b) s = .next (s.answered (.error (.invalidBit ch)))) ∧
      ((∀ c ∈ b, c = 0x30#8 ∨ c = 0x31#8) → b.length % 6 ≠ 0 →
        exec (.enc b) s = .next (s.answered (.error (.invalidLength b.length))))) ∧
    exec .bpc s = .next (s.answered (.ok (.number 6)))

/-- 30_encoding.md R57, 60_exceptions.md R114: `STATUS` tells the four kinds apart, and exactly one of `INFO` and `RESULT` is
present, on an OK response the result and on an error the payload. -/
def Obligations.ResponseFields : Prop :=
  (∀ r : Result, statusCode (.ok r) = 0b00#2 ∧ infoField (.ok r) = none ∧ resultField (.ok r) = some r) ∧
  (∀ c : CharCode, statusCode (.error (.invalidCharacter c)) = 0b01#2 ∧
    infoField (.error (.invalidCharacter c)) = some (.ch c) ∧ resultField (.error (.invalidCharacter c)) = none) ∧
  (∀ c : CharCode, statusCode (.error (.invalidBit c)) = 0b10#2 ∧
    infoField (.error (.invalidBit c)) = some (.ch c) ∧ resultField (.error (.invalidBit c)) = none) ∧
  (∀ n : Nat, statusCode (.error (.invalidLength n)) = 0b11#2 ∧
    infoField (.error (.invalidLength n)) = some (.len n) ∧ resultField (.error (.invalidLength n)) = none)

/-- The rows of kind status_code as instructions (the model's choice, log 3): each ends the transaction with its response, the
primitives `return OK(x)` and `raise E(info)` of 00_scope.md. -/
def Obligations.StatusRowsEndTheTransaction : Prop :=
  ∀ s : State,
    (∀ r : Result, exec (.statusOk r) s = .next (s.answered (.ok r))) ∧
    (∀ ch : CharCode,
      exec (.statusInvalidCharacter ch) s = .next (s.answered (.error (.invalidCharacter ch)))) ∧
    (∀ ch : CharCode, exec (.statusInvalidBit ch) s = .next (s.answered (.error (.invalidBit ch)))) ∧
    (∀ len : Nat, exec (.statusInvalidLength len) s = .next (s.answered (.error (.invalidLength len))))

/-- 30_encoding.md R60: a reserved op-select code is refused, no step and no response, in every state. -/
def Obligations.ReservedOperationsAreRefused : Prop :=
  ∀ s : State,
    exec .reserved101 s = .refused (.reservedOperation 0b101#3) ∧
    exec .reserved110 s = .refused (.reservedOperation 0b110#3) ∧
    exec .reserved111 s = .refused (.reservedOperation 0b111#3)

/-! The rows of kind rom_entry as instructions (the model's choice, log 4): one ROM access each, with the symbol of
10_state.md R24 in the code of 30_encoding.md R52. -/

/-- Rows `ROM_00` to `ROM_25`: the uppercase letters. -/
def Obligations.RomRowsOfUppercaseLetters : Prop :=
  ∀ s : State, RomIntact s.mem →
    exec .rom00 s = .next (s.answered (.ok (.char 0x41#8))) ∧
    exec .rom01 s = .next (s.answered (.ok (.char 0x42#8))) ∧
    exec .rom02 s = .next (s.answered (.ok (.char 0x43#8))) ∧
    exec .rom03 s = .next (s.answered (.ok (.char 0x44#8))) ∧
    exec .rom04 s = .next (s.answered (.ok (.char 0x45#8))) ∧
    exec .rom05 s = .next (s.answered (.ok (.char 0x46#8))) ∧
    exec .rom06 s = .next (s.answered (.ok (.char 0x47#8))) ∧
    exec .rom07 s = .next (s.answered (.ok (.char 0x48#8))) ∧
    exec .rom08 s = .next (s.answered (.ok (.char 0x49#8))) ∧
    exec .rom09 s = .next (s.answered (.ok (.char 0x4A#8))) ∧
    exec .rom10 s = .next (s.answered (.ok (.char 0x4B#8))) ∧
    exec .rom11 s = .next (s.answered (.ok (.char 0x4C#8))) ∧
    exec .rom12 s = .next (s.answered (.ok (.char 0x4D#8))) ∧
    exec .rom13 s = .next (s.answered (.ok (.char 0x4E#8))) ∧
    exec .rom14 s = .next (s.answered (.ok (.char 0x4F#8))) ∧
    exec .rom15 s = .next (s.answered (.ok (.char 0x50#8))) ∧
    exec .rom16 s = .next (s.answered (.ok (.char 0x51#8))) ∧
    exec .rom17 s = .next (s.answered (.ok (.char 0x52#8))) ∧
    exec .rom18 s = .next (s.answered (.ok (.char 0x53#8))) ∧
    exec .rom19 s = .next (s.answered (.ok (.char 0x54#8))) ∧
    exec .rom20 s = .next (s.answered (.ok (.char 0x55#8))) ∧
    exec .rom21 s = .next (s.answered (.ok (.char 0x56#8))) ∧
    exec .rom22 s = .next (s.answered (.ok (.char 0x57#8))) ∧
    exec .rom23 s = .next (s.answered (.ok (.char 0x58#8))) ∧
    exec .rom24 s = .next (s.answered (.ok (.char 0x59#8))) ∧
    exec .rom25 s = .next (s.answered (.ok (.char 0x5A#8)))

/-- Rows `ROM_26` to `ROM_47`: the lowercase letters `a` to `v` (the spec's decision D2). -/
def Obligations.RomRowsOfLowercaseLetters : Prop :=
  ∀ s : State, RomIntact s.mem →
    exec .rom26 s = .next (s.answered (.ok (.char 0x61#8))) ∧
    exec .rom27 s = .next (s.answered (.ok (.char 0x62#8))) ∧
    exec .rom28 s = .next (s.answered (.ok (.char 0x63#8))) ∧
    exec .rom29 s = .next (s.answered (.ok (.char 0x64#8))) ∧
    exec .rom30 s = .next (s.answered (.ok (.char 0x65#8))) ∧
    exec .rom31 s = .next (s.answered (.ok (.char 0x66#8))) ∧
    exec .rom32 s = .next (s.answered (.ok (.char 0x67#8))) ∧
    exec .rom33 s = .next (s.answered (.ok (.char 0x68#8))) ∧
    exec .rom34 s = .next (s.answered (.ok (.char 0x69#8))) ∧
    exec .rom35 s = .next (s.answered (.ok (.char 0x6A#8))) ∧
    exec .rom36 s = .next (s.answered (.ok (.char 0x6B#8))) ∧
    exec .rom37 s = .next (s.answered (.ok (.char 0x6C#8))) ∧
    exec .rom38 s = .next (s.answered (.ok (.char 0x6D#8))) ∧
    exec .rom39 s = .next (s.answered (.ok (.char 0x6E#8))) ∧
    exec .rom40 s = .next (s.answered (.ok (.char 0x6F#8))) ∧
    exec .rom41 s = .next (s.answered (.ok (.char 0x70#8))) ∧
    exec .rom42 s = .next (s.answered (.ok (.char 0x71#8))) ∧
    exec .rom43 s = .next (s.answered (.ok (.char 0x72#8))) ∧
    exec .rom44 s = .next (s.answered (.ok (.char 0x73#8))) ∧
    exec .rom45 s = .next (s.answered (.ok (.char 0x74#8))) ∧
    exec .rom46 s = .next (s.answered (.ok (.char 0x75#8))) ∧
    exec .rom47 s = .next (s.answered (.ok (.char 0x76#8)))

/-- Rows `ROM_48` to `ROM_51`: the letters `w x y z`, each once, in an order that does not begin with `w`. -/
def Obligations.RomRowsOfTheOpenTail : Prop :=
  ∀ s : State, RomIntact s.mem →
    ∃ t0 t1 t2 t3 : CharCode, [t0, t1, t2, t3].Perm [0x77#8, 0x78#8, 0x79#8, 0x7A#8] ∧ t0 ≠ 0x77#8 ∧
    exec .rom48 s = .next (s.answered (.ok (.char t0))) ∧
    exec .rom49 s = .next (s.answered (.ok (.char t1))) ∧
    exec .rom50 s = .next (s.answered (.ok (.char t2))) ∧
    exec .rom51 s = .next (s.answered (.ok (.char t3)))

/-- Rows `ROM_52` to `ROM_63`: the digits, `_` and `-`. -/
def Obligations.RomRowsOfDigitsAndPunctuation : Prop :=
  ∀ s : State, RomIntact s.mem →
    exec .rom52 s = .next (s.answered (.ok (.char 0x30#8))) ∧
    exec .rom53 s = .next (s.answered (.ok (.char 0x31#8))) ∧
    exec .rom54 s = .next (s.answered (.ok (.char 0x32#8))) ∧
    exec .rom55 s = .next (s.answered (.ok (.char 0x33#8))) ∧
    exec .rom56 s = .next (s.answered (.ok (.char 0x34#8))) ∧
    exec .rom57 s = .next (s.answered (.ok (.char 0x35#8))) ∧
    exec .rom58 s = .next (s.answered (.ok (.char 0x36#8))) ∧
    exec .rom59 s = .next (s.answered (.ok (.char 0x37#8))) ∧
    exec .rom60 s = .next (s.answered (.ok (.char 0x38#8))) ∧
    exec .rom61 s = .next (s.answered (.ok (.char 0x39#8))) ∧
    exec .rom62 s = .next (s.answered (.ok (.char 0x5F#8))) ∧
    exec .rom63 s = .next (s.answered (.ok (.char 0x2D#8)))

/-! Every instruction, every step, every run. -/

/-- 20_memory.md R37, R41: no instruction has a side effect. It leaves every ROM address and the request port as they were,
adds one response, and repeating it repeats the response. -/
def Obligations.NoInstructionHasASideEffect : Prop :=
  ∀ (i : Instr) (s t : State), exec i s = .next t →
    (∀ a : Nat, romReadAt t.mem a = romReadAt s.mem a) ∧ t.mem = s.mem ∧ t.inbox = s.inbox ∧
    ∃ r : Response, t.outbox = s.outbox ++ [r] ∧
      exec i t = .next { mem := s.mem, inbox := s.inbox, outbox := s.outbox ++ [r, r] }

/-- 60_exceptions.md R117 and 20_memory.md R39, as consequences: what was answered before has no effect. From two states that differ only in the
responses delivered so far, runs of any length deliver the same further responses. -/
def Obligations.RunsDoNotDependOnEarlierResponses : Prop :=
  ∀ (n : Nat) (s s' t : State), s'.mem = s.mem → s'.inbox = s.inbox → runSteps n s = .next t →
    ∃ rs : List Response, t.outbox = s.outbox ++ rs ∧
      runSteps n s' = .next { mem := t.mem, inbox := t.inbox, outbox := s'.outbox ++ rs }

/-- The bytes at the request port that decode to an instruction run as that instruction, on the state without them. How a
request lies in bytes is the model's own layout (log 1). -/
def Obligations.StepRunsTheDecodedInstruction : Prop :=
  ∀ (s : State) (i : Instr) (rest : List Byte), decode s.inbox = .ok (i, rest) →
    step s = exec i { mem := s.mem, inbox := rest, outbox := s.outbox }

/-- With nothing at the request port the block is idle (log 6); bytes that are no request are refused (log 7). -/
def Obligations.StepIsIdleOrRefusesWithoutARequest : Prop :=
  (∀ s : State, s.inbox = [] → step s = .next s) ∧
  (∀ (s : State) (e : DecodeError), s.inbox ≠ [] → decode s.inbox = .error e → step s = .refused (.undecodable e))

/-- 60_exceptions.md R119: a value outside 0..63 is refused, never wrapped and never answered; the ROM has nothing there. -/
def Obligations.ValuesOutsideTheRomAreRefused : Prop :=
  (∀ (s : State) (b : Byte) (rest : List Byte), 64 ≤ b.toNat → s.inbox = 0x00#8 :: b :: rest →
    step s = .refused (.undecodable (.valueOutOfRange b))) ∧
  (∀ (m : Memory) (a : Nat), (64 ≤ a → romReadAt m a = none) ∧
    (∀ v : Value, v.toNat = a → romReadAt m a = some (romRead m v)))

/-- 60_exceptions.md R124: every request is answered, in every state and whatever its argument: none is refused. -/
def Obligations.EveryRequestIsAnswered : Prop :=
  ∀ (i : Instr) (s : State) (rest : List Byte), IsRequest i → s.inbox = encode i ++ rest →
    ∃ r : Response, step s = .next { mem := s.mem, inbox := rest, outbox := s.outbox ++ [r] }

/-- 70_reset_and_hazards.md R138: serving a request shortens what is presented, so a run of finitely many bytes is finite. -/
def Obligations.EveryServedRequestShortensThePort : Prop :=
  ∀ s t : State, s.inbox ≠ [] → step s = .next t → t.inbox.length < s.inbox.length

/-- 70_reset_and_hazards.md, end of a run: no run of any length changes the ROM. -/
def Obligations.NoRunChangesTheRom : Prop :=
  ∀ (n : Nat) (s t : State), runSteps n s = .next t →
    t.mem = s.mem ∧ ∀ a : Nat, romReadAt t.mem a = romReadAt s.mem a

/-- 70_reset_and_hazards.md, end of a run, and 20_memory.md R39: a run over any finite sequence of requests answers each of
them, in order, with the response that request gets in any state with the same ROM; the ROM is as before and nothing is
left at the port. That requests lie as `encode`'s bytes and that they wait in `inbox` and are answered in `outbox` are the
model's choices (logs 1 and 5). -/
def Obligations.RunsAnswerEachRequestByItself : Prop :=
  ∀ (reqs : List Instr) (s : State), (∀ i ∈ reqs, IsRequest i) → s.inbox = reqs.flatMap encode →
    ∃ rs : List Response, rs.length = reqs.length ∧
      runSteps reqs.length s = .next { mem := s.mem, inbox := [], outbox := s.outbox ++ rs } ∧
      ∀ (k : Nat) (i : Instr) (r : Response), reqs[k]? = some i → rs[k]? = some r →
        ∀ s' : State, s'.mem = s.mem → exec i s' = .next (s'.answered r)

/-- Every step keeps the invariant: the ROM in canonical form and holding its table, and every response delivered one the
block can give (symbols only in a clip string, whole groups of bit-characters in a bit string, no symbol in
`InvalidCharacter`, no bit-character in `InvalidBit`, no multiple of 6 in `InvalidLength`). -/
def Obligations.EveryStepKeepsTheInvariant : Prop :=
  ∀ s t : State, Inv s → step s = .next t → Inv t

/-- The invariant holds after reset; and nothing is presented or delivered then, which is the model's choice (log 5): the
spec gives the block no such fields. -/
def Obligations.InvariantHoldsAtReset : Prop :=
  Inv State.reset ∧ State.reset.inbox = [] ∧ State.reset.outbox = []

/-- Every run of any length from a state that meets the invariant is safe: it faults nowhere and ends in such a state or in
a refusal. -/
def Obligations.EveryRunIsSafe : Prop :=
  ∀ (n : Nat) (s : State), Inv s → SafeRun n s

/-! Encoding. -/

/-- Decoding what the encoder writes gives every well-formed instruction back, with every operand, and leaves what follows
it. -/
def Obligations.DecodeInvertsEncode : Prop :=
  ∀ (i : Instr) (rest : List Byte), i.wf = true → decode (encode i ++ rest) = .ok (i, rest)

/-- Whatever bytes decode to an instruction are the encoder's bytes of it, and the instruction is well formed: every byte
sequence has one meaning. -/
def Obligations.EncodeInvertsDecode : Prop :=
  ∀ (bs : List Byte) (i : Instr) (rest : List Byte), decode bs = .ok (i, rest) → bs = encode i ++ rest ∧ i.wf = true

/-- The code of every one of the table's 76 rows, written out, decodes to that row. The first byte is the row's own code, but
for the rows whose number is also a request's: by log 2 the status rows are that code plus 0x40 and `ROM_00` to `ROM_07` that
code plus 0x80. How operands lie in the bytes after the first is log 1. Every row without an operand leaves what follows it. -/
def Obligations.TableCodesDecodeToTheirRows : Prop :=
  decode [0b00000000#8, 0b00111110#8] = .ok (.symat 62#6, []) ∧
  decode [0b00000001#8, 0x5F#8] = .ok (.idxof 0x5F#8, []) ∧
  decode [0b00000010#8, 2#8, 0x41#8, 0x42#8] = .ok (.dec [0x41#8, 0x42#8], []) ∧
  decode [0b00000011#8, 3#8, 0x31#8, 0x30#8, 0x31#8] = .ok (.enc [0x31#8, 0x30#8, 0x31#8], []) ∧
  decode [0b01000000#8, 0#8, 0x5F#8] = .ok (.statusOk (.char 0x5F#8), []) ∧
  decode [0b01000000#8, 1#8, 62#8] = .ok (.statusOk (.value 62#6), []) ∧
  decode [0b01000000#8, 2#8, 6#8, 0x30#8, 0x30#8, 0x30#8, 0x30#8, 0x30#8, 0x31#8] =
    .ok (.statusOk (.bitString [0x30#8, 0x30#8, 0x30#8, 0x30#8, 0x30#8, 0x31#8]), []) ∧
  decode [0b01000000#8, 3#8, 2#8, 0x41#8, 0x42#8] = .ok (.statusOk (.clipString [0x41#8, 0x42#8]), []) ∧
  decode [0b01000000#8, 4#8, 6#8] = .ok (.statusOk (.number 6), []) ∧
  decode [0b01000001#8, 0x21#8] = .ok (.statusInvalidCharacter 0x21#8, []) ∧
  decode [0b01000010#8, 0x32#8] = .ok (.statusInvalidBit 0x32#8, []) ∧
  decode [0b01000011#8, 3#8] = .ok (.statusInvalidLength 3, []) ∧
  ∀ rest : List Byte,
    decode (0b00000100#8 :: rest) = .ok (.bpc, rest) ∧
    decode (0b00000101#8 :: rest) = .ok (.reserved101, rest) ∧
    decode (0b00000110#8 :: rest) = .ok (.reserved110, rest) ∧
    decode (0b00000111#8 :: rest) = .ok (.reserved111, rest) ∧
    decode (0x80#8 :: rest) = .ok (.rom00, rest) ∧
    decode (0x81#8 :: rest) = .ok (.rom01, rest) ∧
    decode (0x82#8 :: rest) = .ok (.rom02, rest) ∧
    decode (0x83#8 :: rest) = .ok (.rom03, rest) ∧
    decode (0x84#8 :: rest) = .ok (.rom04, rest) ∧
    decode (0x85#8 :: rest) = .ok (.rom05, rest) ∧
    decode (0x86#8 :: rest) = .ok (.rom06, rest) ∧
    decode (0x87#8 :: rest) = .ok (.rom07, rest) ∧
    decode (0x08#8 :: rest) = .ok (.rom08, rest) ∧
    decode (0x09#8 :: rest) = .ok (.rom09, rest) ∧
    decode (0x0A#8 :: rest) = .ok (.rom10, rest) ∧
    decode (0x0B#8 :: rest) = .ok (.rom11, rest) ∧
    decode (0x0C#8 :: rest) = .ok (.rom12, rest) ∧
    decode (0x0D#8 :: rest) = .ok (.rom13, rest) ∧
    decode (0x0E#8 :: rest) = .ok (.rom14, rest) ∧
    decode (0x0F#8 :: rest) = .ok (.rom15, rest) ∧
    decode (0x10#8 :: rest) = .ok (.rom16, rest) ∧
    decode (0x11#8 :: rest) = .ok (.rom17, rest) ∧
    decode (0x12#8 :: rest) = .ok (.rom18, rest) ∧
    decode (0x13#8 :: rest) = .ok (.rom19, rest) ∧
    decode (0x14#8 :: rest) = .ok (.rom20, rest) ∧
    decode (0x15#8 :: rest) = .ok (.rom21, rest) ∧
    decode (0x16#8 :: rest) = .ok (.rom22, rest) ∧
    decode (0x17#8 :: rest) = .ok (.rom23, rest) ∧
    decode (0x18#8 :: rest) = .ok (.rom24, rest) ∧
    decode (0x19#8 :: rest) = .ok (.rom25, rest) ∧
    decode (0x1A#8 :: rest) = .ok (.rom26, rest) ∧
    decode (0x1B#8 :: rest) = .ok (.rom27, rest) ∧
    decode (0x1C#8 :: rest) = .ok (.rom28, rest) ∧
    decode (0x1D#8 :: rest) = .ok (.rom29, rest) ∧
    decode (0x1E#8 :: rest) = .ok (.rom30, rest) ∧
    decode (0x1F#8 :: rest) = .ok (.rom31, rest) ∧
    decode (0x20#8 :: rest) = .ok (.rom32, rest) ∧
    decode (0x21#8 :: rest) = .ok (.rom33, rest) ∧
    decode (0x22#8 :: rest) = .ok (.rom34, rest) ∧
    decode (0x23#8 :: rest) = .ok (.rom35, rest) ∧
    decode (0x24#8 :: rest) = .ok (.rom36, rest) ∧
    decode (0x25#8 :: rest) = .ok (.rom37, rest) ∧
    decode (0x26#8 :: rest) = .ok (.rom38, rest) ∧
    decode (0x27#8 :: rest) = .ok (.rom39, rest) ∧
    decode (0x28#8 :: rest) = .ok (.rom40, rest) ∧
    decode (0x29#8 :: rest) = .ok (.rom41, rest) ∧
    decode (0x2A#8 :: rest) = .ok (.rom42, rest) ∧
    decode (0x2B#8 :: rest) = .ok (.rom43, rest) ∧
    decode (0x2C#8 :: rest) = .ok (.rom44, rest) ∧
    decode (0x2D#8 :: rest) = .ok (.rom45, rest) ∧
    decode (0x2E#8 :: rest) = .ok (.rom46, rest) ∧
    decode (0x2F#8 :: rest) = .ok (.rom47, rest) ∧
    decode (0x30#8 :: rest) = .ok (.rom48, rest) ∧
    decode (0x31#8 :: rest) = .ok (.rom49, rest) ∧
    decode (0x32#8 :: rest) = .ok (.rom50, rest) ∧
    decode (0x33#8 :: rest) = .ok (.rom51, rest) ∧
    decode (0x34#8 :: rest) = .ok (.rom52, rest) ∧
    decode (0x35#8 :: rest) = .ok (.rom53, rest) ∧
    decode (0x36#8 :: rest) = .ok (.rom54, rest) ∧
    decode (0x37#8 :: rest) = .ok (.rom55, rest) ∧
    decode (0x38#8 :: rest) = .ok (.rom56, rest) ∧
    decode (0x39#8 :: rest) = .ok (.rom57, rest) ∧
    decode (0x3A#8 :: rest) = .ok (.rom58, rest) ∧
    decode (0x3B#8 :: rest) = .ok (.rom59, rest) ∧
    decode (0x3C#8 :: rest) = .ok (.rom60, rest) ∧
    decode (0x3D#8 :: rest) = .ok (.rom61, rest) ∧
    decode (0x3E#8 :: rest) = .ok (.rom62, rest) ∧
    decode (0x3F#8 :: rest) = .ok (.rom63, rest)
end

