-- ==== Sys2Proof/Laws/State.lean ====
section
/-! SUPPORT. One lemma per field per update of State, and the reset values. -/

namespace Sys2Proof.Machine

@[simp] theorem State.deliver_mem (s : State) (r : Response) : (s.deliver r).mem = s.mem := rfl
@[simp] theorem State.deliver_inbox (s : State) (r : Response) : (s.deliver r).inbox = s.inbox := rfl
@[simp] theorem State.deliver_outbox (s : State) (r : Response) : (s.deliver r).outbox = s.outbox ++ [r] := rfl

@[simp] theorem State.answered_mem (s : State) (r : Response) : (s.answered r).mem = s.mem := rfl
@[simp] theorem State.answered_inbox (s : State) (r : Response) : (s.answered r).inbox = s.inbox := rfl
@[simp] theorem State.answered_outbox (s : State) (r : Response) : (s.answered r).outbox = s.outbox ++ [r] := rfl

/-- The shared operation leaves what the claims call an answered state. -/
theorem State.deliver_eq_answered (s : State) (r : Response) : s.deliver r = s.answered r := rfl

@[simp] theorem State.answered_inj (s : State) (r r' : Response) : s.answered r = s.answered r' ↔ r = r' := by
  simp [State.answered]

@[simp] theorem State.reset_mem : State.reset.mem = [] := rfl
@[simp] theorem State.reset_inbox : State.reset.inbox = [] := rfl
@[simp] theorem State.reset_outbox : State.reset.outbox = [] := rfl

@[simp] theorem State.withFetchWord_mem (s : State) (nbits w : Nat) : (s.withFetchWord nbits w).mem = s.mem := rfl
@[simp] theorem State.withFetchWord_outbox (s : State) (nbits w : Nat) :
    (s.withFetchWord nbits w).outbox = s.outbox := rfl
@[simp] theorem State.withFetchWord_inbox (s : State) (nbits w : Nat) :
    (s.withFetchWord nbits w).inbox = tableWordBytes nbits w := rfl

end Sys2Proof.Machine
end

