-- ==== Sys2Proof/Laws/Rom.lean ====
section
/-! SUPPORT. The contents of the ROM: symbols only, distinct, all of them; and reading it by address and by content. -/

namespace Sys2Proof.Machine

/-- Every value is one of the 64 listed. -/
theorem mem_allValues (v : Value) : v ∈ allValues :=
  List.mem_map.mpr ⟨v.toNat, List.mem_range.mpr v.isLt, by simp⟩

/-- The symbols in code order within each block: what every permitted table is a rearrangement of. -/
def romSymbols : List CharCode :=
  romUpper ++ romLower ++ [0x77#8, 0x78#8, 0x79#8, 0x7A#8] ++ romDigits ++ romPunct

theorem romTail_perm (k : Fin 18) :
    [(romTail k).t0, (romTail k).t1, (romTail k).t2, (romTail k).t3].Perm [0x77#8, 0x78#8, 0x79#8, 0x7A#8] := by
  revert k; decide

theorem romTable_perm (k : Fin 18) : (romTable k).Perm romSymbols :=
  (((romTail_perm k).append_left _).append_right _).append_right _

theorem romSymbols_nodup : romSymbols.Nodup := by decide +kernel

theorem mem_romSymbols (c : CharCode) : c ∈ romSymbols ↔ isSymbol c = true := by
  revert c; decide +kernel

/-- The symbols are the entries of every permitted table. -/
theorem mem_romTable (k : Fin 18) (c : CharCode) : c ∈ romTable k ↔ isSymbol c = true :=
  (romTable_perm k).mem_iff.trans (mem_romSymbols c)

theorem romEntry_isSymbol (k : Fin 18) (v : Value) : isSymbol (romEntry k v) = true :=
  (mem_romTable k _).mp (List.getElem_mem _)

theorem isSymbol_romEntry (k : Fin 18) (c : CharCode) (h : isSymbol c = true) : ∃ v, romEntry k v = c := by
  obtain ⟨n, hn, rfl⟩ := List.getElem_of_mem ((mem_romTable k c).mpr h)
  exact ⟨BitVec.ofNat 6 n, by simp [romEntry, Nat.mod_eq_of_lt (show n < 64 from hn)]⟩

/-- No symbol stands at two addresses of a permitted table. -/
theorem romTable_nodup (k : Fin 18) : (romTable k).Nodup := (romTable_perm k).nodup_iff.mpr romSymbols_nodup

theorem romEntry_injective (k : Fin 18) {u v : Value} (h : romEntry k u = romEntry k v) : u = v :=
  BitVec.eq_of_toNat_eq ((romTable_nodup k).getElem_inj_iff.mp h)

/-- With nothing listed the ROM reads as its table. -/
@[simp] theorem romRead_nil (v : Value) : romRead [] v = romReset v := rfl

theorem romIntact_nil : RomIntact [] := fun _ => rfl

theorem RomIntact.eq {m : Memory} (h : RomIntact m) : romRead m = romReset := funext h

theorem RomIntact.distinct {m : Memory} (h : RomIntact m) : RomDistinct m := by
  intro u v huv
  rw [h u, h v] at huv
  exact romEntry_injective _ huv

theorem RomIntact.inRom_iff {m : Memory} (h : RomIntact m) (c : CharCode) : InRom m c ↔ isSymbol c = true := by
  constructor
  · rintro ⟨v, rfl⟩
    rw [h v]
    exact romEntry_isSymbol _ v
  · intro hc
    obtain ⟨v, hv⟩ := isSymbol_romEntry Config.romTailChoice c hc
    exact ⟨v, (h v).trans hv⟩

/-- The symbol-to-value decoder finds nothing exactly when no entry is the character. -/
theorem indexOf_eq_none_iff (rom : Value → CharCode) (c : CharCode) : indexOf rom c = none ↔ ∀ v, rom v ≠ c := by
  simp [indexOf, List.find?_eq_none, mem_allValues]

/-- What the symbol-to-value decoder finds is an address of the character. -/
theorem rom_of_indexOf {rom : Value → CharCode} {c : CharCode} {v : Value} (h : indexOf rom c = some v) : rom v = c := by
  simpa using List.find?_some h

/-- With distinct entries the symbol-to-value decoder inverts the ROM. -/
theorem indexOf_rom {m : Memory} (h : RomDistinct m) (v : Value) : indexOf (romRead m) (romRead m v) = some v := by
  cases hv : indexOf (romRead m) (romRead m v) with
  | none => exact absurd rfl ((indexOf_eq_none_iff _ _).mp hv v)
  | some u => rw [h u v (rom_of_indexOf hv)]

theorem indexOf_isSome_of_inRom {m : Memory} {c : CharCode} (h : InRom m c) : ∃ v, indexOf (romRead m) c = some v := by
  obtain ⟨v, hv⟩ := h
  cases hi : indexOf (romRead m) c with
  | none => exact absurd hv ((indexOf_eq_none_iff _ _).mp hi v)
  | some u => exact ⟨u, rfl⟩

theorem indexOf_eq_none_of_not_inRom {m : Memory} {c : CharCode} (h : ¬ InRom m c) : indexOf (romRead m) c = none :=
  (indexOf_eq_none_iff _ _).mpr (not_exists.mp h)

/-- The canonical form holds of the empty list, the only memory a run from reset has. -/
theorem memory_wf_nil : Memory.wf [] = true := rfl

/-- A canonical memory that reads as the table lists nothing. -/
theorem eq_nil_of_wf_of_intact {m : Memory} (hw : Memory.wf m = true) (h : RomIntact m) : m = [] := by
  cases m with
  | nil => rfl
  | cons cell rest =>
    simp only [Memory.wf, Memory.cellOk, Bool.and_eq_true, decide_eq_true_eq, bne_iff_ne] at hw
    have ha : (BitVec.ofNat 6 cell.1).toNat = cell.1 := by
      rw [BitVec.toNat_ofNat]; exact Nat.mod_eq_of_lt hw.1.1.1
    have hr := h (BitVec.ofNat 6 cell.1)
    rw [romRead, ha, List.find?_cons_of_pos (by simp)] at hr
    exact absurd hr hw.1.1.2

end Sys2Proof.Machine
end

