-- ==== Sys2Proof/Laws/Exec.lean ====
section
/-! SUPPORT. What an instruction can do, said once: it ends a transaction with one response, or it is a reserved code. -/

namespace Sys2Proof.Machine

@[simp] theorem endTransaction_eq (r : Response) (s : State) : endTransaction r s = .next (s.answered r) := rfl
@[simp] theorem returnOk_eq (r : Result) (s : State) : returnOk r s = .next (s.answered (.ok r)) := rfl
@[simp] theorem raiseError_eq (e : CodecError) (s : State) : raiseError e s = .next (s.answered (.error e)) := rfl
@[simp] theorem conclude_eq (x : Except CodecError Result) (s : State) :
    conclude x s = .next (s.answered (responseOf x)) := rfl
@[simp] theorem responseOf_ok (r : Result) : responseOf (.ok r) = .ok r := rfl
@[simp] theorem responseOf_error (e : CodecError) : responseOf (.error e) = .error e := rfl

theorem exec_symat (v : Value) (s : State) :
    exec (.symat v) s = .next (s.answered (.ok (.char (romRead s.mem v)))) := rfl
theorem exec_idxof (c : CharCode) (s : State) :
    exec (.idxof c) s = .next (s.answered (responseOf (lookup (romRead s.mem) c))) := rfl
theorem exec_dec (cs : List CharCode) (s : State) :
    exec (.dec cs) s = .next (s.answered (responseOf (decodeClip (romRead s.mem) cs))) := rfl
theorem exec_enc (cs : List CharCode) (s : State) :
    exec (.enc cs) s = .next (s.answered (responseOf (encodeBits (romRead s.mem) cs))) := rfl

/-- The response an instruction gives over a ROM, or none for a reserved code. It names what `exec` delivers. -/
def answerOf (rom : Value → CharCode) : Instr → Option Response
  | .symat v => some (.ok (.char (rom v)))
  | .idxof c => some (responseOf (lookup rom c))
  | .dec cs => some (responseOf (decodeClip rom cs))
  | .enc cs => some (responseOf (encodeBits rom cs))
  | .bpc => some (.ok (.number Config.bitsPerChar))
  | .reserved101 => none
  | .reserved110 => none
  | .reserved111 => none
  | .statusOk r => some (.ok r)
  | .statusInvalidCharacter ch => some (.error (.invalidCharacter ch))
  | .statusInvalidBit ch => some (.error (.invalidBit ch))
  | .statusInvalidLength len => some (.error (.invalidLength len))
  | .rom00 => some (.ok (.char (rom 0#6)))
  | .rom01 => some (.ok (.char (rom 1#6)))
  | .rom02 => some (.ok (.char (rom 2#6)))
  | .rom03 => some (.ok (.char (rom 3#6)))
  | .rom04 => some (.ok (.char (rom 4#6)))
  | .rom05 => some (.ok (.char (rom 5#6)))
  | .rom06 => some (.ok (.char (rom 6#6)))
  | .rom07 => some (.ok (.char (rom 7#6)))
  | .rom08 => some (.ok (.char (rom 8#6)))
  | .rom09 => some (.ok (.char (rom 9#6)))
  | .rom10 => some (.ok (.char (rom 10#6)))
  | .rom11 => some (.ok (.char (rom 11#6)))
  | .rom12 => some (.ok (.char (rom 12#6)))
  | .rom13 => some (.ok (.char (rom 13#6)))
  | .rom14 => some (.ok (.char (rom 14#6)))
  | .rom15 => some (.ok (.char (rom 15#6)))
  | .rom16 => some (.ok (.char (rom 16#6)))
  | .rom17 => some (.ok (.char (rom 17#6)))
  | .rom18 => some (.ok (.char (rom 18#6)))
  | .rom19 => some (.ok (.char (rom 19#6)))
  | .rom20 => some (.ok (.char (rom 20#6)))
  | .rom21 => some (.ok (.char (rom 21#6)))
  | .rom22 => some (.ok (.char (rom 22#6)))
  | .rom23 => some (.ok (.char (rom 23#6)))
  | .rom24 => some (.ok (.char (rom 24#6)))
  | .rom25 => some (.ok (.char (rom 25#6)))
  | .rom26 => some (.ok (.char (rom 26#6)))
  | .rom27 => some (.ok (.char (rom 27#6)))
  | .rom28 => some (.ok (.char (rom 28#6)))
  | .rom29 => some (.ok (.char (rom 29#6)))
  | .rom30 => some (.ok (.char (rom 30#6)))
  | .rom31 => some (.ok (.char (rom 31#6)))
  | .rom32 => some (.ok (.char (rom 32#6)))
  | .rom33 => some (.ok (.char (rom 33#6)))
  | .rom34 => some (.ok (.char (rom 34#6)))
  | .rom35 => some (.ok (.char (rom 35#6)))
  | .rom36 => some (.ok (.char (rom 36#6)))
  | .rom37 => some (.ok (.char (rom 37#6)))
  | .rom38 => some (.ok (.char (rom 38#6)))
  | .rom39 => some (.ok (.char (rom 39#6)))
  | .rom40 => some (.ok (.char (rom 40#6)))
  | .rom41 => some (.ok (.char (rom 41#6)))
  | .rom42 => some (.ok (.char (rom 42#6)))
  | .rom43 => some (.ok (.char (rom 43#6)))
  | .rom44 => some (.ok (.char (rom 44#6)))
  | .rom45 => some (.ok (.char (rom 45#6)))
  | .rom46 => some (.ok (.char (rom 46#6)))
  | .rom47 => some (.ok (.char (rom 47#6)))
  | .rom48 => some (.ok (.char (rom 48#6)))
  | .rom49 => some (.ok (.char (rom 49#6)))
  | .rom50 => some (.ok (.char (rom 50#6)))
  | .rom51 => some (.ok (.char (rom 51#6)))
  | .rom52 => some (.ok (.char (rom 52#6)))
  | .rom53 => some (.ok (.char (rom 53#6)))
  | .rom54 => some (.ok (.char (rom 54#6)))
  | .rom55 => some (.ok (.char (rom 55#6)))
  | .rom56 => some (.ok (.char (rom 56#6)))
  | .rom57 => some (.ok (.char (rom 57#6)))
  | .rom58 => some (.ok (.char (rom 58#6)))
  | .rom59 => some (.ok (.char (rom 59#6)))
  | .rom60 => some (.ok (.char (rom 60#6)))
  | .rom61 => some (.ok (.char (rom 61#6)))
  | .rom62 => some (.ok (.char (rom 62#6)))
  | .rom63 => some (.ok (.char (rom 63#6)))

/-- The inversion lemma of `exec`: a next state is the state answered with the instruction's response, which depends on
the ROM alone. -/
theorem exec_eq_next {i : Instr} {s t : State} (h : exec i s = .next t) :
    ∃ r, answerOf (romRead s.mem) i = some r ∧ t = s.answered r := by
  cases i <;> first | exact ⟨_, rfl, (Host.Outcome.next.inj h).symm⟩ | cases h

/-- An instruction with a response answers with it. -/
theorem exec_of_answerOf {i : Instr} {s : State} {r : Response} (h : answerOf (romRead s.mem) i = some r) :
    exec i s = .next (s.answered r) := by
  cases i <;> first | (cases h; rfl) | cases h

/-- No instruction touches the ROM, so no operation can break its canonical form. -/
theorem exec_keeps_wf {i : Instr} {s t : State} (h : exec i s = .next t) (hw : Memory.wf s.mem = true) :
    Memory.wf t.mem = true := by
  obtain ⟨r, -, rfl⟩ := exec_eq_next h
  exact hw

end Sys2Proof.Machine
end

