-- ==== Sys2Proof/Laws/Operands.lean ====
section
/-! SUPPORT. The bit-group datapath and the sequence forms: one spec lemma per function. -/

namespace Sys2Proof.Machine

@[simp] theorem bitval_bitch (b : Bool) : bitval (bitch b) = some b := by cases b <;> rfl

/-- A character reads as a bit exactly when it is that bit's character. -/
theorem bitval_eq_some_iff (c : CharCode) (b : Bool) : bitval c = some b ↔ c = bitch b := by
  revert c b; decide +kernel

theorem bitval_eq_none_iff (c : CharCode) : bitval c = none ↔ isBitChar c = false := by
  revert c; decide +kernel

theorem isBitChar_iff (c : CharCode) : isBitChar c = true ↔ ∃ b, c = bitch b := by
  revert c; decide +kernel

@[simp] theorem isBitChar_bitch (b : Bool) : isBitChar (bitch b) = true := by cases b <;> rfl

/-- The bits of a value, most significant first. -/
def valueBits (v : Value) : List Bool :=
  [v.getLsbD 5, v.getLsbD 4, v.getLsbD 3, v.getLsbD 2, v.getLsbD 1, v.getLsbD 0]

theorem bits6_eq_map (v : Value) : bits6 v = (valueBits v).map bitch := rfl

@[simp] theorem bits6_length (v : Value) : (bits6 v).length = 6 := rfl

@[simp] theorem valueBits_length (v : Value) : (valueBits v).length = 6 := rfl

/-- The parser inverts the renderer. -/
@[simp] theorem val6_bits (v : Value) :
    val6 (v.getLsbD 5) (v.getLsbD 4) (v.getLsbD 3) (v.getLsbD 2) (v.getLsbD 1) (v.getLsbD 0) = v := by
  revert v; decide +kernel

/-- The renderer inverts the parser. -/
theorem valueBits_val6 (g0 g1 g2 g3 g4 g5 : Bool) : valueBits (val6 g0 g1 g2 g3 g4 g5) = [g0, g1, g2, g3, g4, g5] := by
  revert g0 g1 g2 g3 g4 g5; decide +kernel

/-- The groups of rendered values are the values. -/
theorem groupValues_valueBits (vals : List Value) : groupValues (vals.flatMap valueBits) = vals := by
  induction vals with
  | nil => rfl
  | cons v vs ih =>
    show val6 _ _ _ _ _ _ :: groupValues (vs.flatMap valueBits) = v :: vs
    rw [ih, val6_bits]

/-- Bits in whole groups are the rendering of their values. -/
theorem flatMap_groupValues : ∀ bs : List Bool, bs.length % 6 = 0 → (groupValues bs).flatMap valueBits = bs
  | [], _ => rfl
  | [_], h | [_, _], h | [_, _, _], h | [_, _, _, _], h | [_, _, _, _, _], h => by simp at h
  | g0 :: g1 :: g2 :: g3 :: g4 :: g5 :: rest, h => by
    have hr : rest.length % 6 = 0 := by simp only [List.length_cons] at h; omega
    rw [groupValues, List.flatMap_cons, valueBits_val6, flatMap_groupValues rest hr]
    rfl

theorem groupValues_length : ∀ bs : List Bool, (groupValues bs).length = bs.length / 6
  | [] | [_] | [_, _] | [_, _, _] | [_, _, _, _] | [_, _, _, _, _] => by simp [groupValues]
  | g0 :: g1 :: g2 :: g3 :: g4 :: g5 :: rest => by
    simp only [groupValues, List.length_cons, groupValues_length rest]
    omega

/-- Bit-characters parse to their bits. -/
@[simp] theorem parseBits_map_bitch (bs : List Bool) : parseBits (bs.map bitch) = .ok bs := by
  induction bs with
  | nil => rfl
  | cons b bs ih => simp [parseBits, ih]

/-- What parses is bit-characters, and nothing else does. -/
theorem eq_map_of_parseBits {cs : List CharCode} {bs : List Bool} (h : parseBits cs = .ok bs) : cs = bs.map bitch := by
  induction cs generalizing bs with
  | nil => cases h; rfl
  | cons c cs ih =>
    unfold parseBits at h
    cases hc : bitval c with
    | none => simp [hc] at h
    | some b =>
      cases hp : parseBits cs with
      | error e => simp [hc, hp] at h
      | ok tail =>
        simp only [hc, hp, Except.ok.injEq] at h
        rw [← h, List.map_cons, ← ih hp, (bitval_eq_some_iff c b).mp hc]

/-- The leftmost character that is no bit-character is the one reported, whatever follows it. -/
theorem parseBits_bad {pre post : List CharCode} {c : CharCode} (hpre : ∀ d ∈ pre, isBitChar d = true)
    (hc : isBitChar c = false) : parseBits (pre ++ c :: post) = .error (.invalidBit c) := by
  induction pre with
  | nil => simp [parseBits, (bitval_eq_none_iff c).mpr hc]
  | cons d pre ih =>
    obtain ⟨b, hb⟩ := (isBitChar_iff d).mp (hpre d (by simp))
    simp [parseBits, hb, ih (fun x hx => hpre x (by simp [hx]))]

/-- Sequences of bit-characters are the renderings of bits. -/
theorem exists_bits {cs : List CharCode} (h : ∀ c ∈ cs, isBitChar c = true) : ∃ bs : List Bool, cs = bs.map bitch := by
  induction cs with
  | nil => exact ⟨[], rfl⟩
  | cons c cs ih =>
    obtain ⟨b, rfl⟩ := (isBitChar_iff c).mp (h c (by simp))
    obtain ⟨bs, rfl⟩ := ih (fun d hd => h d (by simp [hd]))
    exact ⟨b :: bs, rfl⟩

/-- A sequence has a leftmost character that fails a test, or none that does. -/
theorem first_bad (p : CharCode → Bool) (cs : List CharCode) :
    (∀ c ∈ cs, p c = true) ∨ ∃ pre c post, cs = pre ++ c :: post ∧ (∀ d ∈ pre, p d = true) ∧ p c = false := by
  induction cs with
  | nil => exact .inl (by simp)
  | cons c cs ih =>
    cases hc : p c with
    | false => exact .inr ⟨[], c, cs, rfl, by simp, hc⟩
    | true =>
      rcases ih with h | ⟨pre, d, post, rfl, hpre, hd⟩
      · exact .inl (by simpa [hc] using h)
      · exact .inr ⟨c :: pre, d, post, rfl, by simpa [hc] using hpre, hd⟩

/-- Symbols render to the groups of their values, in processing order. -/
theorem renderSeq_map {m : Memory} (h : RomDistinct m) (vals : List Value) :
    renderSeq (romRead m) (vals.map (romRead m)) = .ok (vals.flatMap bits6) := by
  induction vals with
  | nil => rfl
  | cons v vs ih => simp [renderSeq, indexOf_rom h, ih]

/-- The first character in processing order that is no symbol is the one reported. -/
theorem renderSeq_bad {m : Memory} {pre post : List CharCode} {c : CharCode} (hpre : ∀ d ∈ pre, InRom m d)
    (hc : ¬ InRom m c) : renderSeq (romRead m) (pre ++ c :: post) = .error (.invalidCharacter c) := by
  induction pre with
  | nil => simp [renderSeq, indexOf_eq_none_of_not_inRom hc]
  | cons d pre ih =>
    obtain ⟨v, hv⟩ := indexOf_isSome_of_inRom (hpre d (by simp))
    simp [renderSeq, hv, ih (fun x hx => hpre x (by simp [hx]))]

/-- Symbols are the symbols at some values. -/
theorem exists_values {m : Memory} {cs : List CharCode} (h : ∀ c ∈ cs, InRom m c) :
    ∃ vals : List Value, cs = vals.map (romRead m) := by
  induction cs with
  | nil => exact ⟨[], rfl⟩
  | cons c cs ih =>
    obtain ⟨v, rfl⟩ := h c (by simp)
    obtain ⟨vals, rfl⟩ := ih (fun d hd => h d (by simp [hd]))
    exact ⟨v :: vals, rfl⟩

end Sys2Proof.Machine
end

