-- ==== Sys2Proof/Laws/Codec.lean ====
section
/-! SUPPORT. The two sequence engines: one spec lemma per outcome of each. -/

namespace Sys2Proof.Machine

/-- `DEC` of symbols (42_decode.md R90). -/
theorem decodeClip_map {m : Memory} (h : RomDistinct m) (vals : List Value) :
    decodeClip (romRead m) (vals.map (romRead m)) = .ok (.bitString (vals.reverse.flatMap bits6)) := by
  simp [decodeClip, ← List.map_reverse, renderSeq_map h]

/-- `DEC` of a sequence with a character that is no symbol (42_decode.md R92). -/
theorem decodeClip_bad {m : Memory} {pre post : List CharCode} {c : CharCode} (hc : ¬ InRom m c)
    (hpost : ∀ d ∈ post, InRom m d) :
    decodeClip (romRead m) (pre ++ c :: post) = .error (.invalidCharacter c) := by
  have := renderSeq_bad (post := pre.reverse) (fun d hd => hpost d (List.mem_reverse.mp hd)) hc
  simp [decodeClip, this]

/-- A sequence is all symbols, or has a rightmost character that is none. -/
theorem symbols_or_last_bad (m : Memory) (cs : List CharCode) :
    (∀ c ∈ cs, InRom m c) ∨ ∃ pre c post, cs = pre ++ c :: post ∧ ¬ InRom m c ∧ ∀ d ∈ post, InRom m d := by
  induction cs with
  | nil => exact .inl (by simp)
  | cons c cs ih =>
    rcases ih with h | ⟨pre, d, post, rfl, hd, hpost⟩
    · by_cases hc : InRom m c
      · exact .inl (by simpa [hc] using h)
      · exact .inr ⟨[], c, cs, rfl, hc, h⟩
    · exact .inr ⟨c :: pre, d, post, rfl, hd, hpost⟩

/-- `ENC` of bit-characters in whole groups (43_encode.md R100). -/
theorem encodeBits_map (rom : Value → CharCode) (bs : List Bool) (h : bs.length % 6 = 0) :
    encodeBits rom (bs.map bitch) = .ok (.clipString ((groupValues bs).map rom).reverse) := by
  simp [encodeBits, h]

/-- `ENC` of rendered values. -/
theorem encodeBits_bits6 (rom : Value → CharCode) (vals : List Value) :
    encodeBits rom (vals.flatMap bits6) = .ok (.clipString (vals.map rom).reverse) := by
  have hm : vals.flatMap bits6 = (vals.flatMap valueBits).map bitch := by
    rw [List.map_flatMap]; rfl
  have hl : (vals.flatMap valueBits).length % 6 = 0 := by
    simp [List.length_flatMap, valueBits_length]
  rw [hm, encodeBits_map rom _ hl, groupValues_valueBits]

/-- `ENC` of bit-characters with a group left over (43_encode.md R102 (b)). -/
theorem encodeBits_length (rom : Value → CharCode) (bs : List Bool) (h : bs.length % 6 ≠ 0) :
    encodeBits rom (bs.map bitch) = .error (.invalidLength bs.length) := by
  simp [encodeBits, h]

/-- `ENC` of a sequence with a character that is no bit-character (43_encode.md R101, R102 (a)). -/
theorem encodeBits_bad (rom : Value → CharCode) {pre post : List CharCode} {c : CharCode}
    (hpre : ∀ d ∈ pre, isBitChar d = true) (hc : isBitChar c = false) :
    encodeBits rom (pre ++ c :: post) = .error (.invalidBit c) := by
  simp [encodeBits, parseBits_bad hpre hc]

end Sys2Proof.Machine
end

