-- ==== Sys2Proof/Laws/Decode.lean ====
section
/-! SUPPORT. The decoder and the encoder, operand by operand: what is encoded is decoded, and what is decoded was
encoded so. -/

namespace Sys2Proof

theorem decodeNat_encodeNatFuel (fuel n : Nat) (h : n ≤ fuel) (rest : List Byte) :
    decodeNat (encodeNatFuel fuel n ++ rest) = .ok (n, rest) := by
  induction fuel generalizing n with
  | zero =>
    obtain rfl : n = 0 := by omega
    rfl
  | succ fuel ih =>
    unfold encodeNatFuel
    split
    · rename_i hn
      have : n % 256 = n := by omega
      simp [decodeNat, this, hn]
    · rename_i hn
      have hm : (128 + n % 128) % 256 = 128 + n % 128 := by omega
      have hd : n / 128 ≠ 0 := by omega
      simp only [List.cons_append, decodeNat, BitVec.toNat_ofNat, hm, ih (n / 128) (by omega), if_neg hd]
      rw [if_neg (by omega)]
      congr 2
      omega

@[simp] theorem decodeNat_encodeNat (n : Nat) (rest : List Byte) : decodeNat (encodeNat n ++ rest) = .ok (n, rest) :=
  decodeNat_encodeNatFuel n n le_rfl rest

/-- More fuel than the number gives the same digits. -/
theorem encodeNatFuel_eq (fuel n : Nat) (h : n ≤ fuel) : encodeNatFuel fuel n = encodeNat n := by
  suffices ∀ f g n, n ≤ f → n ≤ g → encodeNatFuel f n = encodeNatFuel g n from this fuel n n h le_rfl
  intro f
  induction f with
  | zero =>
    intro g n hf _
    obtain rfl : n = 0 := by omega
    cases g <;> rfl
  | succ f ih =>
    intro g n _ hg
    cases g with
    | zero =>
      obtain rfl : n = 0 := by omega
      rfl
    | succ g =>
      unfold encodeNatFuel
      split
      · rfl
      · rw [ih g (n / 128) (by omega) (by omega)]

theorem encodeNat_small {n : Nat} (h : n < 128) : encodeNat n = [BitVec.ofNat 8 n] := by
  cases n with
  | zero => rfl
  | succ n => rw [encodeNat, encodeNatFuel, if_pos h]

theorem encodeNat_large {n : Nat} (h : 128 ≤ n) : encodeNat n = BitVec.ofNat 8 (128 + n % 128) :: encodeNat (n / 128) := by
  obtain ⟨k, rfl⟩ : ∃ k, n = k + 1 := ⟨n - 1, by omega⟩
  rw [encodeNat, encodeNatFuel, if_neg (by omega), encodeNatFuel_eq _ _ (by omega)]

/-- A decoded number was encoded so: digits are not padded. -/
theorem eq_encodeNat_of_decodeNat {bs rest : List Byte} {n : Nat} (h : decodeNat bs = .ok (n, rest)) :
    bs = encodeNat n ++ rest := by
  induction bs generalizing n with
  | nil => simp [decodeNat] at h
  | cons b bs ih =>
    unfold decodeNat at h
    have hb := b.isLt
    split at h
    · rename_i hlt
      obtain ⟨rfl, rfl⟩ : b.toNat = n ∧ bs = rest := by simpa using h
      simp [encodeNat_small hlt]
    · rename_i hlt
      cases hd : decodeNat bs with
      | error e => simp [hd] at h
      | ok p =>
        obtain ⟨k, r⟩ := p
        simp only [hd] at h
        split at h
        · cases h
        · rename_i hk
          simp only [Except.ok.injEq, Prod.mk.injEq] at h
          obtain ⟨rfl, rfl⟩ := h
          rw [encodeNat_large (by omega), ih hd]
          have h1 : (b.toNat - 128 + 128 * k) / 128 = k := by omega
          have h2 : 128 + (b.toNat - 128 + 128 * k) % 128 = b.toNat := by omega
          rw [h1, h2, BitVec.ofNat_toNat, BitVec.setWidth_eq]
          rfl

@[simp] theorem decodeSeq_encodeSeq (s : List CharCode) (rest : List Byte) :
    decodeSeq (encodeSeq s ++ rest) = .ok (s, rest) := by
  simp [decodeSeq, encodeSeq, List.append_assoc]

theorem eq_encodeSeq_of_decodeSeq {bs rest : List Byte} {s : List CharCode} (h : decodeSeq bs = .ok (s, rest)) :
    bs = encodeSeq s ++ rest := by
  unfold decodeSeq at h
  cases hd : decodeNat bs with
  | error e => simp [hd] at h
  | ok p =>
    obtain ⟨n, r⟩ := p
    simp only [hd] at h
    split at h
    · cases h
    · rename_i hlen
      simp only [Except.ok.injEq, Prod.mk.injEq] at h
      obtain ⟨rfl, rfl⟩ := h
      rw [eq_encodeNat_of_decodeNat hd, encodeSeq, List.append_assoc, List.take_append_drop, List.length_take]
      congr 2
      omega

@[simp] theorem decodeValue_encodeValue (v : Value) (rest : List Byte) :
    decodeValue (encodeValue v ++ rest) = .ok (v, rest) := by
  have hv := v.isLt
  have h : (v.setWidth 8).toNat = v.toNat := by
    rw [BitVec.toNat_setWidth]
    omega
  simp only [encodeValue, List.cons_append, List.nil_append, decodeValue, h, if_pos (show v.toNat < 64 from hv)]
  simp

theorem eq_encodeValue_of_decodeValue {bs rest : List Byte} {v : Value} (h : decodeValue bs = .ok (v, rest)) :
    bs = encodeValue v ++ rest := by
  cases bs with
  | nil => cases h
  | cons b bs =>
    simp only [decodeValue] at h
    split at h
    · rename_i hb
      simp only [Except.ok.injEq, Prod.mk.injEq] at h
      obtain ⟨rfl, rfl⟩ := h
      have hs : (b.setWidth 6).setWidth 8 = b := by
        apply BitVec.eq_of_toNat_eq
        simp
        omega
      simp [encodeValue, hs]
    · cases h

theorem eq_of_decodeByte {bs rest : List Byte} {b : Byte} (h : decodeByte bs = .ok (b, rest)) : bs = b :: rest := by
  cases bs with
  | nil => cases h
  | cons c bs => cases h; rfl

theorem operand_eq_ok {α β : Type} {f : α → β} {x : Except DecodeError (α × List Byte)} {b : β} {rest : List Byte}
    (h : operand f x = .ok (b, rest)) : ∃ a, x = .ok (a, rest) ∧ b = f a := by
  cases x with
  | error e => cases h
  | ok p => cases h; exact ⟨p.1, rfl, rfl⟩

@[simp] theorem operand_ok {α β : Type} (f : α → β) (a : α) (rest : List Byte) :
    operand f (.ok (a, rest)) = .ok (f a, rest) := rfl

@[simp] theorem decodeResult_encodeResult (r : Result) (rest : List Byte) :
    decodeResult (encodeResult r ++ rest) = .ok (r, rest) := by
  cases r with
  | char c => rfl
  | value v => simp [encodeResult, decodeResult]
  | bitString b => simp [encodeResult, decodeResult]
  | clipString s => simp [encodeResult, decodeResult]
  | number n => simp [encodeResult, decodeResult]

theorem eq_encodeResult_of_decodeResult {bs rest : List Byte} {r : Result} (h : decodeResult bs = .ok (r, rest)) :
    bs = encodeResult r ++ rest := by
  cases bs with
  | nil => cases h
  | cons b bs =>
    have hb : BitVec.ofNat 8 b.toNat = b := by simp
    simp only [decodeResult] at h
    split at h
    case h_6 => cases h
    all_goals
      rename_i hk
      rw [hk] at hb
      obtain ⟨a, ha, rfl⟩ := operand_eq_ok h
      rw [← hb]
    · rw [eq_of_decodeByte ha]; rfl
    · rw [eq_encodeValue_of_decodeValue ha]; rfl
    · rw [eq_encodeSeq_of_decodeSeq ha]; rfl
    · rw [eq_encodeSeq_of_decodeSeq ha]; rfl
    · rw [eq_encodeNat_of_decodeNat ha]; rfl

/-- The row of a value, and its one-byte word. -/
theorem encode_romRow_high (b : Byte) (h : 0x08 ≤ b.toNat ∧ b.toNat < 0x40) : encode (romRow (b.setWidth 6)) = [b] := by
  revert b; decide +kernel

theorem encode_romRow_low (b : Byte) (h : 0x80 ≤ b.toNat ∧ b.toNat < 0x88) : encode (romRow (b.setWidth 6)) = [b] := by
  revert b; decide +kernel

/-- A step's instruction is well formed. -/
theorem wf_of_decode {bs rest : List Byte} {i : Instr} (h : decode bs = .ok (i, rest)) : i.wf = true := by
  cases bs with
  | nil => cases h
  | cons b bs =>
    simp only [decode] at h
    split at h
    · cases h
    · split at h
      · cases h; assumption
      · cases h

end Sys2Proof
end

