-- ==== Sys2Proof/Laws/PerInstr.lean ====
section
/-! SUPPORT. A statement about every instruction, one lemma per constructor: its encoding has a first byte. So a served
request always shortens the request port's bytes. -/

namespace Sys2Proof.Laws.EncodeNonempty

def Statement (i : Instr) : Prop := encode i ≠ []

theorem symat (v : Value) : Statement (.symat v) := List.cons_ne_nil _ _
theorem idxof (c : CharCode) : Statement (.idxof c) := List.cons_ne_nil _ _
theorem dec (cs : List CharCode) : Statement (.dec cs) := List.cons_ne_nil _ _
theorem enc (cs : List CharCode) : Statement (.enc cs) := List.cons_ne_nil _ _
theorem bpc : Statement .bpc := List.cons_ne_nil _ _
theorem reserved101 : Statement .reserved101 := List.cons_ne_nil _ _
theorem reserved110 : Statement .reserved110 := List.cons_ne_nil _ _
theorem reserved111 : Statement .reserved111 := List.cons_ne_nil _ _
theorem statusOk (r : Result) : Statement (.statusOk r) := List.cons_ne_nil _ _
theorem statusInvalidCharacter (ch : CharCode) : Statement (.statusInvalidCharacter ch) := List.cons_ne_nil _ _
theorem statusInvalidBit (ch : CharCode) : Statement (.statusInvalidBit ch) := List.cons_ne_nil _ _
theorem statusInvalidLength (len : Nat) : Statement (.statusInvalidLength len) := List.cons_ne_nil _ _
theorem rom00 : Statement .rom00 := List.cons_ne_nil _ _
theorem rom01 : Statement .rom01 := List.cons_ne_nil _ _
theorem rom02 : Statement .rom02 := List.cons_ne_nil _ _
theorem rom03 : Statement .rom03 := List.cons_ne_nil _ _
theorem rom04 : Statement .rom04 := List.cons_ne_nil _ _
theorem rom05 : Statement .rom05 := List.cons_ne_nil _ _
theorem rom06 : Statement .rom06 := List.cons_ne_nil _ _
theorem rom07 : Statement .rom07 := List.cons_ne_nil _ _
theorem rom08 : Statement .rom08 := List.cons_ne_nil _ _
theorem rom09 : Statement .rom09 := List.cons_ne_nil _ _
theorem rom10 : Statement .rom10 := List.cons_ne_nil _ _
theorem rom11 : Statement .rom11 := List.cons_ne_nil _ _
theorem rom12 : Statement .rom12 := List.cons_ne_nil _ _
theorem rom13 : Statement .rom13 := List.cons_ne_nil _ _
theorem rom14 : Statement .rom14 := List.cons_ne_nil _ _
theorem rom15 : Statement .rom15 := List.cons_ne_nil _ _
theorem rom16 : Statement .rom16 := List.cons_ne_nil _ _
theorem rom17 : Statement .rom17 := List.cons_ne_nil _ _
theorem rom18 : Statement .rom18 := List.cons_ne_nil _ _
theorem rom19 : Statement .rom19 := List.cons_ne_nil _ _
theorem rom20 : Statement .rom20 := List.cons_ne_nil _ _
theorem rom21 : Statement .rom21 := List.cons_ne_nil _ _
theorem rom22 : Statement .rom22 := List.cons_ne_nil _ _
theorem rom23 : Statement .rom23 := List.cons_ne_nil _ _
theorem rom24 : Statement .rom24 := List.cons_ne_nil _ _
theorem rom25 : Statement .rom25 := List.cons_ne_nil _ _
theorem rom26 : Statement .rom26 := List.cons_ne_nil _ _
theorem rom27 : Statement .rom27 := List.cons_ne_nil _ _
theorem rom28 : Statement .rom28 := List.cons_ne_nil _ _
theorem rom29 : Statement .rom29 := List.cons_ne_nil _ _
theorem rom30 : Statement .rom30 := List.cons_ne_nil _ _
theorem rom31 : Statement .rom31 := List.cons_ne_nil _ _
theorem rom32 : Statement .rom32 := List.cons_ne_nil _ _
theorem rom33 : Statement .rom33 := List.cons_ne_nil _ _
theorem rom34 : Statement .rom34 := List.cons_ne_nil _ _
theorem rom35 : Statement .rom35 := List.cons_ne_nil _ _
theorem rom36 : Statement .rom36 := List.cons_ne_nil _ _
theorem rom37 : Statement .rom37 := List.cons_ne_nil _ _
theorem rom38 : Statement .rom38 := List.cons_ne_nil _ _
theorem rom39 : Statement .rom39 := List.cons_ne_nil _ _
theorem rom40 : Statement .rom40 := List.cons_ne_nil _ _
theorem rom41 : Statement .rom41 := List.cons_ne_nil _ _
theorem rom42 : Statement .rom42 := List.cons_ne_nil _ _
theorem rom43 : Statement .rom43 := List.cons_ne_nil _ _
theorem rom44 : Statement .rom44 := List.cons_ne_nil _ _
theorem rom45 : Statement .rom45 := List.cons_ne_nil _ _
theorem rom46 : Statement .rom46 := List.cons_ne_nil _ _
theorem rom47 : Statement .rom47 := List.cons_ne_nil _ _
theorem rom48 : Statement .rom48 := List.cons_ne_nil _ _
theorem rom49 : Statement .rom49 := List.cons_ne_nil _ _
theorem rom50 : Statement .rom50 := List.cons_ne_nil _ _
theorem rom51 : Statement .rom51 := List.cons_ne_nil _ _
theorem rom52 : Statement .rom52 := List.cons_ne_nil _ _
theorem rom53 : Statement .rom53 := List.cons_ne_nil _ _
theorem rom54 : Statement .rom54 := List.cons_ne_nil _ _
theorem rom55 : Statement .rom55 := List.cons_ne_nil _ _
theorem rom56 : Statement .rom56 := List.cons_ne_nil _ _
theorem rom57 : Statement .rom57 := List.cons_ne_nil _ _
theorem rom58 : Statement .rom58 := List.cons_ne_nil _ _
theorem rom59 : Statement .rom59 := List.cons_ne_nil _ _
theorem rom60 : Statement .rom60 := List.cons_ne_nil _ _
theorem rom61 : Statement .rom61 := List.cons_ne_nil _ _
theorem rom62 : Statement .rom62 := List.cons_ne_nil _ _
theorem rom63 : Statement .rom63 := List.cons_ne_nil _ _

end Sys2Proof.Laws.EncodeNonempty
end

