-- ==== Sys2Proof/Laws/Step.lean ====
section
/-! SUPPORT. What a step and a run can do, said once. -/

namespace Sys2Proof.Machine

/-- The inversion lemma of `step`: nothing was presented and nothing changed, or the first request was answered. -/
theorem step_eq_next {s t : State} (h : step s = .next t) :
    (s.inbox = [] ∧ t = s) ∨
    ∃ i rest r, decode s.inbox = .ok (i, rest) ∧ answerOf (romRead s.mem) i = some r ∧
      t = { mem := s.mem, inbox := rest, outbox := s.outbox ++ [r] } := by
  unfold step at h
  split at h
  · rename_i hb
    cases h
    exact .inl ⟨hb, rfl⟩
  · rename_i b bs hb
    split at h
    · cases h
    · rename_i i rest hd
      obtain ⟨r, hr, rfl⟩ := exec_eq_next h
      exact .inr ⟨i, rest, r, by rw [hb, hd], hr, rfl⟩

/-- A presented instruction with a response is answered with it. -/
theorem step_of_decode {s : State} {i : Instr} {rest : List Byte} {r : Response} (hd : decode s.inbox = .ok (i, rest))
    (hr : answerOf (romRead s.mem) i = some r) :
    step s = .next { mem := s.mem, inbox := rest, outbox := s.outbox ++ [r] } := by
  unfold step
  split
  · rename_i hb
    rw [hb] at hd
    cases hd
  · rename_i b bs hb
    rw [hb] at hd
    rw [hd]
    exact exec_of_answerOf (s := { s with inbox := rest }) hr

@[simp] theorem runSteps_zero (s : State) : runSteps 0 s = .next s := rfl

/-- The inversion lemma of a run: it makes its first step and runs on. -/
theorem runSteps_succ_eq_next {n : Nat} {s t : State} (h : runSteps (n + 1) s = .next t) :
    ∃ u, step s = .next u ∧ runSteps n u = .next t := by
  unfold runSteps at h
  cases hs : step s with
  | next u => exact ⟨u, rfl, by simpa [hs] using h⟩
  | fault r => simp [hs] at h
  | refused r => simp [hs] at h

theorem runSteps_succ_of_next {n : Nat} {s u : State} (h : step s = .next u) : runSteps (n + 1) s = runSteps n u := by
  rw [runSteps, h]

/-- The host's run after one step, for any machine. -/
theorem host_run_succ (M : Host.Core) (n : Nat) (s : M.State) :
    (∀ t, M.step s = .next t → M.run (n + 1) s = M.run n t) ∧
    (∀ r, M.step s = .fault r → M.run (n + 1) s = .fault r) ∧
    (∀ r, M.step s = .refused r → M.run (n + 1) s = .refused r) := by
  refine ⟨fun t h => ?_, fun r h => ?_, fun r h => ?_⟩ <;> simp [Host.Core.run, h]

/-- The claims' run is the host's. -/
theorem host_run_eq (n : Nat) (s : State) : Host.Core.run Sys2Proof.core n s = runSteps n s := by
  induction n generalizing s with
  | zero => rfl
  | succ n ih =>
    have h := host_run_succ Sys2Proof.core n s
    cases hs : step s with
    | next t => exact (h.1 t hs).trans ((ih t).trans (runSteps_succ_of_next hs).symm)
    | fault r => exact r.casesOn
    | refused r =>
      have he : runSteps (n + 1) s = .refused r := by rw [runSteps, hs]
      exact (h.2.2 r hs).trans he.symm

end Sys2Proof.Machine
end

