-- ==== Sys2Proof/Tests/Slice0.lean ====
section
/-! SUPPORT. Tests of one decoding or one step each, with results from the spec's tables and test vectors, and one witness
for the hypotheses of every statement that has some. -/

open Sys2Proof Sys2Proof.Machine

/-! Ill-formed response words, one for each check of WellFormed.lean, and that the decoder refuses them. -/

theorem test_wf_refuses_ok_nonsymbol : (Instr.statusOk (.char 0x21#8)).wf = false := by decide
theorem test_wf_refuses_ok_bad_bit : (Instr.statusOk (.bitString [0x30#8, 0x30#8, 0x30#8, 0x30#8, 0x30#8, 0x32#8])).wf = false := by decide
theorem test_wf_refuses_ok_ragged_bits : (Instr.statusOk (.bitString [0x30#8, 0x30#8, 0x30#8, 0x30#8, 0x30#8])).wf = false := by decide
theorem test_wf_refuses_ok_clip_with_space : (Instr.statusOk (.clipString [0x41#8, 0x20#8])).wf = false := by decide
theorem test_wf_refuses_ok_seven : (Instr.statusOk (.number 7)).wf = false := by decide
theorem test_wf_refuses_invalid_character_of_a_symbol : (Instr.statusInvalidCharacter 0x41#8).wf = false := by decide
theorem test_wf_refuses_invalid_bit_of_a_bit : (Instr.statusInvalidBit 0x30#8).wf = false := by decide
theorem test_wf_refuses_invalid_length_of_whole_groups : (Instr.statusInvalidLength 6).wf = false := by decide
theorem test_decode_refuses_ill_formed : decode [0x43#8, 6#8] = .error .illFormed := by rfl

/-! Decoding: every constructor from a word written out from the table's pattern (`OP` in bits 2:0, `STATUS` in bits 1:0, a
value in bits 5:0). -/

/-- Operands of 30_encoding.md R63's examples. -/
theorem test_decode_operations :
    decode [0b000#8, 0b000001#8] = .ok (.symat 1#6, []) ∧
    decode [0b001#8, 0x21#8] = .ok (.idxof 0x21#8, []) ∧
    decode [0b010#8, 2#8, 0x41#8, 0x42#8] = .ok (.dec [0x41#8, 0x42#8], []) ∧
    decode [0b011#8, 3#8, 0x31#8, 0x30#8, 0x31#8] = .ok (.enc [0x31#8, 0x30#8, 0x31#8], []) ∧
    decode [0b100#8] = .ok (.bpc, []) := ⟨rfl, rfl, rfl, rfl, rfl⟩

theorem test_decode_reserved :
    decode [0b101#8] = .ok (.reserved101, []) ∧ decode [0b110#8] = .ok (.reserved110, []) ∧
    decode [0b111#8] = .ok (.reserved111, []) := ⟨rfl, rfl, rfl⟩

/-- Payloads of 95_test_vectors.md P2 and P1. -/
theorem test_decode_status :
    decode [0b01000000#8, 4#8, 6#8] = .ok (.statusOk (.number 6), []) ∧
    decode [0b01000001#8, 0x21#8] = .ok (.statusInvalidCharacter 0x21#8, []) ∧
    decode [0b01000010#8, 0x32#8] = .ok (.statusInvalidBit 0x32#8, []) ∧
    decode [0b01000011#8, 3#8] = .ok (.statusInvalidLength 3, []) := ⟨rfl, rfl, rfl, rfl⟩

theorem test_decode_rom_rows_00_to_15 :
    [0b10000000#8, 0b10000001#8, 0b10000010#8, 0b10000011#8, 0b10000100#8, 0b10000101#8,
     0b10000110#8, 0b10000111#8, 0b00001000#8, 0b00001001#8, 0b00001010#8, 0b00001011#8,
     0b00001100#8, 0b00001101#8, 0b00001110#8, 0b00001111#8].map (fun b => decode [b]) =
    [Instr.rom00, Instr.rom01, Instr.rom02, Instr.rom03, Instr.rom04, Instr.rom05, Instr.rom06, Instr.rom07,
     .rom08, .rom09, .rom10, .rom11, .rom12, .rom13, .rom14, .rom15].map (fun i => .ok (i, [])) := by rfl

theorem test_decode_rom_rows_16_to_31 :
    [0b00010000#8, 0b00010001#8, 0b00010010#8, 0b00010011#8, 0b00010100#8, 0b00010101#8,
     0b00010110#8, 0b00010111#8, 0b00011000#8, 0b00011001#8, 0b00011010#8, 0b00011011#8,
     0b00011100#8, 0b00011101#8, 0b00011110#8, 0b00011111#8].map (fun b => decode [b]) =
    [Instr.rom16, Instr.rom17, Instr.rom18, Instr.rom19, Instr.rom20, Instr.rom21, Instr.rom22, Instr.rom23,
     .rom24, .rom25, .rom26, .rom27, .rom28, .rom29, .rom30, .rom31].map (fun i => .ok (i, [])) := by rfl

theorem test_decode_rom_rows_32_to_47 :
    [0b00100000#8, 0b00100001#8, 0b00100010#8, 0b00100011#8, 0b00100100#8, 0b00100101#8,
     0b00100110#8, 0b00100111#8, 0b00101000#8, 0b00101001#8, 0b00101010#8, 0b00101011#8,
     0b00101100#8, 0b00101101#8, 0b00101110#8, 0b00101111#8].map (fun b => decode [b]) =
    [Instr.rom32, Instr.rom33, Instr.rom34, Instr.rom35, Instr.rom36, Instr.rom37, Instr.rom38, Instr.rom39,
     .rom40, .rom41, .rom42, .rom43, .rom44, .rom45, .rom46, .rom47].map (fun i => .ok (i, [])) := by rfl

theorem test_decode_rom_rows_48_to_63 :
    [0b00110000#8, 0b00110001#8, 0b00110010#8, 0b00110011#8, 0b00110100#8, 0b00110101#8,
     0b00110110#8, 0b00110111#8, 0b00111000#8, 0b00111001#8, 0b00111010#8, 0b00111011#8,
     0b00111100#8, 0b00111101#8, 0b00111110#8, 0b00111111#8].map (fun b => decode [b]) =
    [Instr.rom48, Instr.rom49, Instr.rom50, Instr.rom51, Instr.rom52, Instr.rom53, Instr.rom54, Instr.rom55,
     .rom56, .rom57, .rom58, .rom59, .rom60, .rom61, .rom62, .rom63].map (fun i => .ok (i, [])) := by rfl

theorem test_decode_refusals :
    decode [] = .error .noBytes ∧ decode [0x02#8, 3#8, 0x41#8] = .error .truncated ∧
    decode [0x44#8] = .error (.reservedFormat 0x44#8) ∧ decode [0x00#8, 0x40#8] = .error (.valueOutOfRange 0x40#8) ∧
    decode [0x02#8, 0x80#8, 0x00#8] = .error .paddedNumber ∧ decode [0x40#8, 5#8] = .error (.reservedResult 5#8) :=
  ⟨rfl, rfl, rfl, rfl, rfl, rfl⟩

/-- A length of two digits. -/
theorem test_encode_length_300 : encodeNat 300 = [0xAC#8, 0x02#8] := by rfl

/-- The table's words: operations, reserved codes, and a ROM row whose word is no request. -/
theorem test_table_words :
    decodeTableWord 8 0b000 = some (.symat 0#6) ∧ decodeTableWord 8 0b001 = some (.idxof 0#8) ∧
    decodeTableWord 8 0b010 = some (.dec []) ∧ decodeTableWord 8 0b011 = some (.enc []) ∧
    decodeTableWord 8 0b100 = some .bpc ∧ decodeTableWord 8 0b111 = some .reserved111 ∧
    decodeTableWord 8 0b011010 = some .rom26 ∧ decodeTableWord 8 0b111111 = some .rom63 :=
  ⟨rfl, rfl, rfl, rfl, rfl, rfl, rfl, rfl⟩

/-! One step each, from the vectors of 95_test_vectors.md. -/

/-- TC1, through the host's word. -/
theorem test_step_bpc : step (State.reset.withFetchWord 8 0b100) =
    .next { mem := [], inbox := [], outbox := [.ok (.number 6)] } := by rfl

/-- R60, through the host's word. -/
theorem test_step_reserved : step (State.reset.withFetchWord 8 0b101) = .refused (.reservedOperation 0b101#3) := by rfl

/-- TA3. -/
theorem test_symat_25 : exec (.symat 25#6) State.reset = .next (State.reset.answered (.ok (.char 0x5A#8))) := by rfl
/-- TA9, past the open entries. -/
theorem test_symat_52 : exec (.symat 52#6) State.reset = .next (State.reset.answered (.ok (.char 0x30#8))) := by rfl

/-- TB3: no case folding. -/
theorem test_idxof_a : exec (.idxof 0x61#8) State.reset = .next (State.reset.answered (.ok (.value 26#6))) := by rfl
/-- TB11, for every permitted tail. -/
theorem test_idxof_hyphen : ∀ k : Fin 18, indexOf (romEntry k) 0x2D#8 = some 63#6 := by decide +kernel
/-- TB5, for every permitted tail. -/
theorem test_idxof_w : ∀ k : Fin 18, indexOf (romEntry k) 0x77#8 ∈ [some 49#6, some 50#6, some 51#6] := by decide +kernel

/-- TD13: the rightmost symbol gives the leftmost group. -/
theorem test_dec_AAB : exec (.dec [0x41#8, 0x41#8, 0x42#8]) State.reset = .next (State.reset.answered (.ok (.bitString
    ([0x30#8, 0x30#8, 0x30#8, 0x30#8, 0x30#8, 0x31#8] ++ [0x30#8, 0x30#8, 0x30#8, 0x30#8, 0x30#8, 0x30#8] ++
     [0x30#8, 0x30#8, 0x30#8, 0x30#8, 0x30#8, 0x30#8])))) := by rfl
/-- TD22: the rightmost offender. -/
theorem test_dec_two_offenders : ∀ k : Fin 18,
    responseOf (decodeClip (romEntry k) [0x21#8, 0x41#8, 0x3F#8]) = .error (.invalidCharacter 0x3F#8) := by decide +kernel

/-- TE4: most significant bit first. -/
theorem test_enc_100000 : exec (.enc [0x31#8, 0x30#8, 0x30#8, 0x30#8, 0x30#8, 0x30#8]) State.reset =
    .next (State.reset.answered (.ok (.clipString [0x67#8]))) := by rfl
/-- TE27: the bad character wins over the bad length. -/
theorem test_enc_trailing_space : exec (.enc [0x30#8, 0x30#8, 0x30#8, 0x30#8, 0x30#8, 0x30#8, 0x20#8]) State.reset =
    .next (State.reset.answered (.error (.invalidBit 0x20#8))) := by rfl
/-- TE20: the payload is the whole length. -/
theorem test_enc_seven : exec (.enc [0x30#8, 0x30#8, 0x30#8, 0x30#8, 0x30#8, 0x30#8, 0x31#8]) State.reset =
    .next (State.reset.answered (.error (.invalidLength 7))) := by rfl

/-- P2 step 2: `STATUS` 11, `INFO` 3. -/
theorem test_status_invalid_length : statusCode (.error (.invalidLength 3)) = 0b11#2 ∧
    infoField (.error (.invalidLength 3)) = some (.len 3) := ⟨rfl, rfl⟩

/-- R24: row `ROM_62`. -/
theorem test_rom62 : exec .rom62 State.reset = .next (State.reset.answered (.ok (.char 0x5F#8))) := by rfl

/-- The canonical form refuses an address outside the space, a needless cell and a wrong order. -/
theorem test_memory_wf_refuses : Memory.wf [(64, 0x41#8)] = false ∧ Memory.wf [(0, 0x41#8)] = false ∧
    Memory.wf [(1, 0x43#8), (0, 0x44#8)] = false := ⟨rfl, rfl, rfl⟩

/-! Witnesses: for every statement with hypotheses, values that meet them. -/

theorem inRom_nil (v : Value) : InRom [] (romReset v) := ⟨v, rfl⟩
theorem inRom_nil_A : InRom [] 0x41#8 := ⟨0#6, rfl⟩
theorem inRom_nil_B : InRom [] 0x42#8 := ⟨1#6, rfl⟩
theorem not_inRom_nil {c : CharCode} (h : isSymbol c = false) : ¬ InRom [] c := by
  rw [romIntact_nil.inRom_iff, h]
  decide
theorem symbols_AB : ∀ c ∈ [0x41#8, 0x42#8], InRom [] c := by
  intro c hc
  rcases List.mem_pair.mp hc with rfl | rfl
  · exact inRom_nil_A
  · exact inRom_nil_B

theorem witness_ResetRomIsTheAlphabetTable :
    (25#6).toNat ≤ 25 ∧ (26 ≤ (26#6).toNat ∧ (47#6).toNat ≤ 47) ∧ (52 ≤ (52#6).toNat ∧ (61#6).toNat ≤ 61) := by decide

theorem witness_TailChoicesAreExactlyThePermittedPermutations :
    [0x7A#8, 0x78#8, 0x79#8, 0x77#8].Perm [0x77#8, 0x78#8, 0x79#8, 0x7A#8] ∧ (0x7A#8 : CharCode) ≠ 0x77#8 := by decide

theorem witness_intact_and_distinct : RomIntact State.reset.mem ∧ RomDistinct State.reset.mem :=
  ⟨romIntact_nil, romIntact_nil.distinct⟩

theorem witness_TheAlphabetIsABijectionOntoTheSymbols : RomIntact [] ∧ romRead [] 63#6 = romRead [] 63#6 :=
  ⟨romIntact_nil, rfl⟩

theorem witness_SymatAnswersTheEntry : RomIntact State.reset.mem ∧ RomDistinct State.reset.mem :=
  witness_intact_and_distinct

theorem witness_IdxofAnswersTheValueOrTheError_value :
    RomDistinct State.reset.mem ∧ romRead State.reset.mem 63#6 = 0x2D#8 := ⟨romIntact_nil.distinct, rfl⟩
theorem witness_IdxofAnswersTheValueOrTheError_error : ∀ v : Value, romRead State.reset.mem v ≠ 0x40#8 :=
  not_exists.mp (not_inRom_nil (by decide))
theorem witness_IdxofAnswersTheValueOrTheError_corner :
    RomIntact State.reset.mem ∧ (0x3D#8 : CharCode) ∈ [0x20#8, 0x21#8, 0x2B#8, 0x2F#8, 0x3D#8, 0x00#8] ∧
    0x80 ≤ (0x80#8 : CharCode).toNat := ⟨romIntact_nil, by decide, by decide⟩

theorem witness_BitCharactersAndBits : (0x32#8 : CharCode) ≠ 0x30#8 ∧ (0x32#8 : CharCode) ≠ 0x31#8 ∧
    ∀ d ∈ [0x31#8, 0x30#8] ++ [0x30#8], d = 0x30#8 ∨ d = (0x31#8 : CharCode) := by decide

theorem witness_GroupRendererIsMsbFirst : 0 ≤ 5 ∧ 5 ≤ 5 := by decide

theorem witness_DecRendersSymbolsRightToLeft :
    RomDistinct State.reset.mem ∧ ∃ c ∈ [0x41#8, 0x21#8], ¬ InRom State.reset.mem c :=
  ⟨romIntact_nil.distinct, 0x21#8, by decide, not_inRom_nil (by decide)⟩

theorem witness_DecReportsTheRightmostNonSymbol :
    [0x21#8, 0x3F#8, 0x41#8] = [0x21#8] ++ 0x3F#8 :: [0x41#8] ∧ ¬ InRom State.reset.mem 0x3F#8 ∧
    ∀ d ∈ [0x41#8], InRom State.reset.mem d :=
  ⟨rfl, not_inRom_nil (by decide), by
    intro d hd
    rw [List.mem_singleton.mp hd]
    exact inRom_nil_A⟩

/-- The last bit position of `"AB"`, whose symbol is the leftmost. -/
theorem witness_DecPositionLaw : RomDistinct State.reset.mem ∧ (∀ c ∈ [0x41#8, 0x42#8], InRom State.reset.mem c) ∧
    11 < 12 ∧ [0x41#8, 0x42#8][2 - 1 - 11 / 6]? = some (romRead State.reset.mem 0#6) ∧
    [0x41#8, 0x42#8][2 - 1 - 0 / 6]? = some (romRead State.reset.mem 1#6) :=
  ⟨romIntact_nil.distinct, symbols_AB, by decide, rfl, rfl⟩

theorem witness_DecReversesTheOrderOfParts : ∀ c ∈ [0x41#8, 0x42#8], InRom State.reset.mem c := symbols_AB

theorem witness_EncMapsGroupsRightToLeft_groups :
    [0x30#8, 0x30#8, 0x30#8, 0x30#8, 0x30#8, 0x31#8].length = 6 * 1 ∧
    (∀ c ∈ [0x30#8, 0x30#8, 0x30#8, 0x30#8, 0x30#8, 0x31#8], c = 0x30#8 ∨ c = 0x31#8) ∧ 0 < 1 := by decide
theorem witness_EncMapsGroupsRightToLeft_other :
    (∃ c ∈ [0x32#8], c ≠ 0x30#8 ∧ c ≠ (0x31#8 : CharCode)) ∧ [0x30#8].length % 6 ≠ 0 :=
  ⟨⟨0x32#8, by decide⟩, by decide⟩

/-- `"12"`: a bad character and a bad length. -/
theorem witness_EncChecksCharactersBeforeLength :
    (∀ d ∈ [0x31#8], d = 0x30#8 ∨ d = (0x31#8 : CharCode)) ∧ (0x32#8 : CharCode) ≠ 0x30#8 ∧ (0x32#8 : CharCode) ≠ 0x31#8 := by
  decide

/-- Both sides of the length clause at length 5. -/
theorem witness_EncErrorsAndTheirPayloads :
    (∀ c ∈ [0x30#8, 0x30#8, 0x30#8, 0x30#8, 0x30#8], c = 0x30#8 ∨ c = (0x31#8 : CharCode)) ∧
    5 = [0x30#8, 0x30#8, 0x30#8, 0x30#8, 0x30#8].length ∧ 5 % 6 ≠ 0 := by decide

theorem witness_EncReversesTheOrderOfParts :
    (∀ c ∈ [0x30#8, 0x30#8, 0x30#8, 0x30#8, 0x30#8, 0x31#8], c = 0x30#8 ∨ c = (0x31#8 : CharCode)) ∧
    [0x30#8, 0x30#8, 0x30#8, 0x30#8, 0x30#8, 0x31#8].length % 6 = 0 := by decide

theorem witness_EncoderAndDecoderInvertEachOther_dec : RomDistinct State.reset.mem ∧
    (State.reset.answered (.error (.invalidLength 1))).mem = State.reset.mem ∧
    ∀ c ∈ [0x41#8, 0x42#8], InRom State.reset.mem c := ⟨romIntact_nil.distinct, rfl, symbols_AB⟩
theorem witness_EncoderAndDecoderInvertEachOther_enc : RomDistinct State.reset.mem ∧
    (State.reset.answered (.error (.invalidLength 1))).mem = State.reset.mem ∧
    [0x30#8, 0x30#8, 0x30#8, 0x30#8, 0x30#8, 0x31#8].length % 6 = 0 ∧
    ∀ c ∈ [0x30#8, 0x30#8, 0x30#8, 0x30#8, 0x30#8, 0x31#8], c = 0x30#8 ∨ c = (0x31#8 : CharCode) :=
  ⟨romIntact_nil.distinct, rfl, by decide, by decide⟩

theorem witness_AnswersHaveTheLawfulLength_dec :
    exec (.dec [0x41#8]) State.reset = .next (State.reset.answered (.ok (.bitString
      [0x30#8, 0x30#8, 0x30#8, 0x30#8, 0x30#8, 0x30#8]))) := by rfl
theorem witness_AnswersHaveTheLawfulLength_enc :
    exec (.enc [0x30#8, 0x30#8, 0x30#8, 0x30#8, 0x30#8, 0x31#8]) State.reset =
      .next (State.reset.answered (.ok (.clipString [0x42#8]))) := by rfl

theorem witness_EnginesAreInjectiveOnValidInputs : RomDistinct State.reset.mem ∧
    exec (.dec [0x41#8]) State.reset = .next (State.reset.answered (.ok (.bitString
      [0x30#8, 0x30#8, 0x30#8, 0x30#8, 0x30#8, 0x30#8]))) ∧
    exec (.enc [0x30#8, 0x30#8, 0x30#8, 0x30#8, 0x30#8, 0x31#8]) State.reset =
      .next (State.reset.answered (.ok (.clipString [0x42#8]))) := ⟨romIntact_nil.distinct, rfl, rfl⟩

theorem witness_WorkedExamplesOfTheSource : RomIntact State.reset.mem := romIntact_nil

theorem witness_EnginesOnOneSymbolAreTheLookups : RomDistinct State.reset.mem := romIntact_nil.distinct

theorem witness_WhitespaceIsAnErrorAndLetterCasesDiffer : RomIntact State.reset.mem ∧ (0x0A#8 : CharCode) ∈ [0x20#8, 0x09#8, 0x0A#8] ∧
    0x41 ≤ (0x41#8 : CharCode).toNat ∧ (0x5A#8 : CharCode).toNat ≤ 0x5A :=
  ⟨romIntact_nil, by decide, by decide, by decide⟩

/-- One argument for each conditional clause: a symbol, no symbol, no bits, a ragged length, a bad bit. -/
theorem witness_OutcomeTable :
    InRom State.reset.mem 0x41#8 ∧ ¬ InRom State.reset.mem 0x40#8 ∧
    (∀ c ∈ [0x41#8, 0x42#8], InRom State.reset.mem c) ∧ (∃ c ∈ [0x41#8, 0x21#8], ¬ InRom State.reset.mem c) ∧
    ([] : List CharCode).length % 6 = 0 ∧ (∃ c ∈ [0x30#8, 0x32#8], c ≠ 0x30#8 ∧ c ≠ (0x31#8 : CharCode)) ∧
    (∀ c ∈ [0x30#8], c = 0x30#8 ∨ c = (0x31#8 : CharCode)) ∧ [0x30#8].length % 6 ≠ 0 :=
  ⟨inRom_nil_A, not_inRom_nil (by decide), symbols_AB, ⟨0x21#8, by decide, not_inRom_nil (by decide)⟩, by decide,
    ⟨0x32#8, by decide⟩, by decide, by decide⟩

theorem witness_RomRows : RomIntact State.reset.mem := romIntact_nil

theorem witness_NoInstructionHasASideEffect :
    exec .bpc State.reset = .next (State.reset.answered (.ok (.number 6))) := by rfl

/-- A failed transaction before the run, and none. -/
theorem witness_RunsDoNotDependOnEarlierResponses :
    (State.reset.answered (.error (.invalidLength 3))).mem = (State.reset).mem ∧
    (State.reset.answered (.error (.invalidLength 3))).inbox = (State.reset).inbox ∧
    runSteps 1 State.reset = .next State.reset := ⟨rfl, rfl, rfl⟩

theorem witness_StepRunsTheDecodedInstruction :
    decode (State.reset.withFetchWord 8 4).inbox = .ok (.bpc, []) := by rfl

theorem witness_StepIsIdleOrRefusesWithoutARequest : State.reset.inbox = [] ∧
    ({ mem := [], inbox := [0xFF#8], outbox := [] } : State).inbox ≠ [] ∧
    decode [0xFF#8] = .error (.reservedFormat 0xFF#8) := ⟨rfl, by decide, rfl⟩

/-- The first byte value that is no value, the last address and the first address outside. -/
theorem witness_ValuesOutsideTheRomAreRefused : 64 ≤ (0x40#8 : Byte).toNat ∧
    ({ mem := [], inbox := [0x00#8, 0x40#8], outbox := [] } : State).inbox = 0x00#8 :: 0x40#8 :: [] ∧
    64 ≤ 64 ∧ (63#6).toNat = 63 := by decide

theorem witness_EveryRequestIsAnswered : IsRequest (.dec [0x21#8]) ∧
    ({ mem := [], inbox := [0x02#8, 1#8, 0x21#8, 0x04#8], outbox := [] } : State).inbox =
      encode (.dec [0x21#8]) ++ [0x04#8] := ⟨.dec _, rfl⟩

theorem witness_EveryServedRequestShortensThePort : (State.reset.withFetchWord 8 4).inbox ≠ [] ∧
    step (State.reset.withFetchWord 8 4) = .next (State.reset.answered (.ok (.number 6))) := ⟨by decide, rfl⟩

theorem witness_NoRunChangesTheRom : runSteps 1 (State.reset.withFetchWord 8 4) =
    .next (State.reset.answered (.ok (.number 6))) := by rfl

theorem witness_RunsAnswerEachRequestByItself :
    (∀ i ∈ [Instr.bpc, .enc [0x32#8]], IsRequest i) ∧
    ({ mem := [], inbox := [0x04#8, 0x03#8, 1#8, 0x32#8], outbox := [] } : State).inbox =
      [Instr.bpc, .enc [0x32#8]].flatMap encode :=
  ⟨by
    intro i hi
    rcases List.mem_pair.mp hi with rfl | rfl
    · exact .bpc
    · exact .enc _, rfl⟩

/-- The canonical form and the table at reset; the hypotheses of the invariant's statement. -/
theorem witness_EveryStepKeepsTheInvariant : Inv (State.reset.withFetchWord 8 4) ∧
    step (State.reset.withFetchWord 8 4) = .next (State.reset.answered (.ok (.number 6))) :=
  ⟨⟨rfl, romIntact_nil, by simp⟩, rfl⟩

theorem witness_EveryRunIsSafe : Inv (State.reset.withFetchWord 8 4) := ⟨rfl, romIntact_nil, by simp⟩

theorem witness_DecodeInvertsEncode : (Instr.statusInvalidLength 7).wf = true ∧ (Instr.dec [0x00#8]).wf = true := by decide

theorem witness_EncodeInvertsDecode : decode [0x3F#8, 0x04#8] = .ok (.rom63, [0x04#8]) := by rfl
end

/-! PROOFS. The alphabet (10_state.md): the ROM's contents block by block, and its symbols counted. -/

namespace Sys2Proof.Machine

/-- A character of a block whose codes run upward from `start` is `start` plus its place in the block. -/
theorem toNat_getElem_of_consecutive {block : List CharCode} {start len i : Nat}
    (hcodes : block.map BitVec.toNat = List.range' start len) (hi : i < block.length) :
    block[i].toNat = start + i := by
  have hlen : i < (block.map BitVec.toNat).length := by simpa using hi
  calc block[i].toNat = (block.map BitVec.toNat)[i] := by rw [List.getElem_map]
    _ = start + i := by simp only [hcodes, List.getElem_range', Nat.one_mul]

/-- An entry whose address falls in a block of the table, the block's codes running upward from `start`. -/
theorem toNat_romEntry_of_block {k : Fin 18} {v : Value} {start : Nat} (before block after : List CharCode)
    (htable : romTable k = before ++ block ++ after)
    (hcodes : block.map BitVec.toNat = List.range' start block.length)
    (hlo : before.length ≤ v.toNat) (hhi : v.toNat - before.length < block.length) :
    (romEntry k v).toNat = start + (v.toNat - before.length) := by
  have hin : v.toNat < (before ++ block).length := by rw [List.length_append]; omega
  have hentry : romEntry k v = block[v.toNat - before.length] := by
    simp only [romEntry, htable]
    rw [List.getElem_append_left hin, List.getElem_append_right hlo]
  rw [hentry, toNat_getElem_of_consecutive hcodes hhi]

/-- Addresses 0 to 25 hold `A` to `Z` (10_state.md R12). -/
theorem romEntry_upper (k : Fin 18) {v : Value} (hhi : v.toNat ≤ 25) : (romEntry k v).toNat = 0x41 + v.toNat :=
  toNat_romEntry_of_block [] romUpper _ rfl (by decide) (Nat.zero_le _) (Nat.lt_succ_of_le hhi)

/-- Addresses 26 to 47 hold `a` to `v` (10_state.md R14). -/
theorem romEntry_lower (k : Fin 18) {v : Value} (hlo : 26 ≤ v.toNat) (hhi : v.toNat ≤ 47) :
    (romEntry k v).toNat = 0x61 + (v.toNat - 26) :=
  have hin : v.toNat - 26 < 22 := by omega
  toNat_romEntry_of_block romUpper romLower _ rfl (by decide) hlo hin

/-- Addresses 52 to 61 hold `0` to `9` (10_state.md R12). -/
theorem romEntry_digit (k : Fin 18) {v : Value} (hlo : 52 ≤ v.toNat) (hhi : v.toNat ≤ 61) :
    (romEntry k v).toNat = 0x30 + (v.toNat - 52) :=
  have hin : v.toNat - 52 < 10 := by omega
  toNat_romEntry_of_block _ romDigits romPunct rfl (by decide) hlo hin

/-- No permitted tail begins with `w` (10_state.md R14). -/
theorem romTail_t0_ne_w (k : Fin 18) : (romTail k).t0 ≠ 0x77#8 := by
  revert k; decide

/-- The codes of the symbols, as the blocks they form (10_state.md R12 and R13, 30_encoding.md R52). -/
theorem isSymbol_iff (c : CharCode) : isSymbol c = true ↔
    (0x41 ≤ c.toNat ∧ c.toNat ≤ 0x5A) ∨ (0x61 ≤ c.toNat ∧ c.toNat ≤ 0x7A) ∨ (0x30 ≤ c.toNat ∧ c.toNat ≤ 0x39) ∨
    c = 0x5F#8 ∨ c = 0x2D#8 := by
  simp [isSymbol, or_assoc, ← BitVec.toNat_inj]

theorem natCard_bitVec (n : Nat) : Nat.card (BitVec n) = 2 ^ n :=
  (Nat.card_congr BitVec.equivFin.toEquiv).trans (Nat.card_fin _)

/-- Distinct entries: as many characters are entries as there are addresses. -/
theorem RomDistinct.card_inRom {m : Memory} (h : RomDistinct m) : Nat.card (Subtype (InRom m)) = 64 :=
  (Nat.card_range_of_injective fun u v => h u v).trans (natCard_bitVec 6)

/-- Distinct entries: the other characters are the rest of the 256 codes. -/
theorem RomDistinct.card_not_inRom {m : Memory} (h : RomDistinct m) :
    Nat.card (Subtype fun c : CharCode => ¬ InRom m c) = 192 := by
  have hsum : Nat.card (Subtype (InRom m)) + Nat.card (Subtype fun c : CharCode => ¬ InRom m c) = 2 ^ 8 := by
    classical
    rw [← Nat.card_sum, Nat.card_congr (Equiv.sumCompl (InRom m)), natCard_bitVec]
  have hin := h.card_inRom
  omega

/-- Settles O3: the table's entries are distinct, and the rest is membership and counting. -/
theorem theAlphabetIsABijectionOntoTheSymbols : Obligations.TheAlphabetIsABijectionOntoTheSymbols := fun _ hm =>
  ⟨hm.distinct, fun c => (hm.inRom_iff c).trans (isSymbol_iff c), hm.distinct.card_inRom, hm.distinct.card_not_inRom⟩

/-- Settles O1, block by block; the open entries by what holds of every permitted tail. -/
theorem resetRomIsTheAlphabetTable : Obligations.ResetRomIsTheAlphabetTable :=
  ⟨fun _ => romEntry_upper _, fun _ => romEntry_lower _, romTail_perm _, romTail_t0_ne_w _,
    fun _ => romEntry_digit _, rfl, rfl⟩

end Sys2Proof.Machine

/-! PROOFS. The memory (20_memory.md): what an instruction leaves as it was. -/

namespace Sys2Proof.Machine

theorem State.answered_answered (s : State) (r r' : Response) :
    (s.answered r).answered r' = { mem := s.mem, inbox := s.inbox, outbox := s.outbox ++ [r, r'] } := by
  simp [State.answered]

/-- An instruction's response is a function of the ROM, so after its own answer it gives that answer once more
(20_memory.md R37). -/
theorem exec_answered_of_answerOf {i : Instr} {s : State} {r : Response}
    (hr : answerOf (romRead s.mem) i = some r) : exec i (s.answered r) = .next ((s.answered r).answered r) :=
  exec_of_answerOf (s := s.answered r) hr

/-- Settles O34, by the inversion lemma of `exec`: the next state is the old one with the instruction's response. -/
theorem noInstructionHasASideEffect : Obligations.NoInstructionHasASideEffect := by
  intro i s t h
  obtain ⟨r, hr, rfl⟩ := exec_eq_next h
  have hagain := exec_answered_of_answerOf hr
  rw [State.answered_answered] at hagain
  exact ⟨fun _ => rfl, rfl, rfl, r, rfl, hagain⟩

end Sys2Proof.Machine

/-! PROOFS. The encoding (30_encoding.md): what the op-select codes of no operation answer. -/

namespace Sys2Proof.Machine

theorem exec_reserved101 (s : State) : exec .reserved101 s = .refused (.reservedOperation 0b101#3) := rfl
theorem exec_reserved110 (s : State) : exec .reserved110 s = .refused (.reservedOperation 0b110#3) := rfl
theorem exec_reserved111 (s : State) : exec .reserved111 s = .refused (.reservedOperation 0b111#3) := rfl

/-- Settles O29, code by code (30_encoding.md R60): each arm refuses without reading the state. -/
theorem reservedOperationsAreRefused : Obligations.ReservedOperationsAreRefused := fun s =>
  ⟨exec_reserved101 s, exec_reserved110 s, exec_reserved111 s⟩

end Sys2Proof.Machine

/-! PROOFS. The single-item operations (40_alphabet_lookup.md): an entry of the ROM by its value, and the value of an
entry. -/

namespace Sys2Proof.Machine

/-- With distinct entries `IDXOF` of an entry answers its one address (40_alphabet_lookup.md R71, R74 (a)). -/
theorem exec_idxof_romRead {s : State} (h : RomDistinct s.mem) (v : Value) :
    exec (.idxof (romRead s.mem v)) s = .next (s.answered (.ok (.value v))) := by
  rw [exec_idxof, lookup, indexOf_rom h, responseOf_ok]

/-- `IDXOF` of a character that is no entry answers the error with that very character (40_alphabet_lookup.md R71). -/
theorem exec_idxof_of_not_inRom {s : State} {c : CharCode} (h : ¬ InRom s.mem c) :
    exec (.idxof c) s = .next (s.answered (.error (.invalidCharacter c))) := by
  rw [exec_idxof, lookup, indexOf_eq_none_of_not_inRom h, responseOf_error]

theorem RomIntact.exec_symat {s : State} (h : RomIntact s.mem) (v : Value) :
    exec (.symat v) s = .next (s.answered (.ok (.char (romReset v)))) := by
  rw [Machine.exec_symat, h v]

theorem RomIntact.exec_idxof {s : State} (h : RomIntact s.mem) (v : Value) :
    exec (.idxof (romReset v)) s = .next (s.answered (.ok (.value v))) := by
  rw [← h v, exec_idxof_romRead h.distinct]

theorem RomIntact.exec_idxof_of_not_isSymbol {s : State} (h : RomIntact s.mem) {c : CharCode}
    (hc : isSymbol c = false) : exec (.idxof c) s = .next (s.answered (.error (.invalidCharacter c))) :=
  exec_idxof_of_not_inRom (by rw [h.inRom_iff, hc]; exact Bool.false_ne_true)

theorem RomIntact.isSymbol_romRead {m : Memory} (h : RomIntact m) (v : Value) : isSymbol (romRead m v) = true :=
  (h.inRom_iff _).mp ⟨v, rfl⟩

/-- Every symbol has a code below `0x80`. -/
theorem isSymbol_eq_false_of_high {c : CharCode} (h : 0x80 ≤ c.toNat) : isSymbol c = false := by
  rw [← Bool.not_eq_true, isSymbol_iff]
  bv_omega

/-- The corner characters of 40_alphabet_lookup.md R71: space, `!`, `+`, `/`, `=`, code 0 and the high codes. -/
theorem isSymbol_eq_false_of_corner {c : CharCode}
    (h : c ∈ [0x20#8, 0x21#8, 0x2B#8, 0x2F#8, 0x3D#8, 0x00#8] ∨ 0x80 ≤ c.toNat) : isSymbol c = false := by
  rcases h with hlisted | hhigh
  · revert c; decide
  · exact isSymbol_eq_false_of_high hhigh

/-- Settles O5: the search for an entry finds its one address, the search for anything else nothing; the corner
characters are entries of the table or no symbols. -/
theorem idxofAnswersTheValueOrTheError : Obligations.IdxofAnswersTheValueOrTheError := by
  refine ⟨?value, fun _ _ hc => exec_idxof_of_not_inRom (not_exists.mpr hc), fun _ hm => ?corners⟩
  case value =>
    rintro s _ v hd rfl
    exact exec_idxof_romRead hd v
  case corners =>
    exact ⟨hm.exec_idxof 26#6, hm.exec_idxof 0#6, hm.exec_idxof 1#6, hm.exec_idxof 52#6, hm.exec_idxof 53#6,
      hm.exec_idxof 62#6, hm.exec_idxof 63#6,
      fun _ hc => hm.exec_idxof_of_not_isSymbol (isSymbol_eq_false_of_corner hc)⟩

/-- Settles O4: the ROM access answers its entry; the corner values read the table, whose entries are symbols, and
`IDXOF` inverts the access. -/
theorem symatAnswersTheEntry : Obligations.SymatAnswersTheEntry := by
  refine ⟨fun s v => exec_symat v s, fun _ hm => ?corners, fun _ v hd => exec_idxof_romRead hd v⟩
  exact ⟨hm.exec_symat 0#6, hm.exec_symat 1#6, hm.exec_symat 62#6, hm.exec_symat 63#6, hm.exec_symat 48#6,
    hm.exec_symat 49#6, hm.exec_symat 50#6, hm.exec_symat 51#6, hm.isSymbol_romRead⟩

theorem readBitsPerChar_eq (s : State) : readBitsPerChar s = 6 := rfl

theorem exec_bpc (s : State) : exec .bpc s = .next (s.answered (.ok (.number (readBitsPerChar s)))) := rfl

/-- Settles O6: `BPC` answers the hard-wired constant, whatever the state (40_alphabet_lookup.md R72). -/
theorem bpcAnswersSix : Obligations.BpcAnswersSix := fun s =>
  ⟨by rw [exec_bpc, readBitsPerChar_eq], readBitsPerChar_eq s⟩

end Sys2Proof.Machine

/-! PROOFS. The bit groups (41_bit_groups.md): bit-characters, the group renderer and the group parser, and what an OK
answer of an engine says of its input. -/

namespace Sys2Proof.Machine

theorem isBitChar_iff_eq (c : CharCode) : isBitChar c = true ↔ c = 0x30#8 ∨ c = 0x31#8 := by
  simp [isBitChar]

/-- `ENC` names the one character that is no bit-character, wherever it stands (41_bit_groups.md R81). -/
theorem exec_enc_of_bad {s : State} {pre post : List CharCode} {c : CharCode}
    (hpre : ∀ d ∈ pre, isBitChar d = true) (hc : isBitChar c = false) :
    exec (.enc (pre ++ c :: post)) s = .next (s.answered (.error (.invalidBit c))) := by
  rw [exec_enc, encodeBits_bad _ hpre hc, responseOf_error]

/-- Settles O7: a character other than the two is no bit-character, so `BITVAL` has no reading of it and `ENC`, which
finds only bit-characters on its left, stops at it. -/
theorem bitCharactersAndBits : Obligations.BitCharactersAndBits := by
  refine ⟨rfl, rfl, rfl, rfl, ?others, bitval_bitch⟩
  intro c h0 h1
  have hc : isBitChar c = false := by
    rw [← Bool.not_eq_true, isBitChar_iff_eq]
    exact not_or.mpr ⟨h0, h1⟩
  refine ⟨(bitval_eq_none_iff c).mpr hc, fun s pre post hbits => exec_enc_of_bad ?_ hc⟩
  exact fun d hd => (isBitChar_iff_eq d).mpr (hbits d (List.mem_append_left post hd))

/-- What renders is the symbols at some values, and the rendering is the groups of these values. -/
theorem exists_values_of_renderSeq {rom : Value → CharCode} {cs out : List CharCode} (h : renderSeq rom cs = .ok out) :
    ∃ vals : List Value, cs = vals.map rom ∧ out = vals.flatMap bits6 := by
  induction cs generalizing out with
  | nil => cases h; exact ⟨[], rfl, rfl⟩
  | cons c cs ih =>
    unfold renderSeq at h
    cases hv : indexOf rom c with
    | none => simp [hv] at h
    | some v =>
      cases ht : renderSeq rom cs with
      | error e => simp [hv, ht] at h
      | ok tail =>
        obtain ⟨vals, rfl, rfl⟩ := ih ht
        simp only [hv, ht, Except.ok.injEq] at h
        exact ⟨v :: vals, by rw [List.map_cons, rom_of_indexOf hv], h.symm⟩

/-- The inversion lemma of `DEC`'s engine: an OK answer is the groups of the input's values, the rightmost symbol's
first (42_decode.md R90). -/
theorem exists_values_of_decodeClip {rom : Value → CharCode} {cs : List CharCode} {r : Result}
    (h : decodeClip rom cs = .ok r) :
    ∃ vals : List Value, cs = vals.map rom ∧ r = .bitString (vals.reverse.flatMap bits6) := by
  unfold decodeClip at h
  cases hr : renderSeq rom cs.reverse with
  | error e => simp [hr] at h
  | ok out =>
    obtain ⟨vals, hcs, rfl⟩ := exists_values_of_renderSeq hr
    simp only [hr, Except.ok.injEq] at h
    refine ⟨vals.reverse, ?_, by rw [List.reverse_reverse, h]⟩
    rw [List.map_reverse, ← hcs, List.reverse_reverse]

/-- The inversion lemma of `ENC`'s engine: an OK answer is the symbols of the input's groups, the rightmost group's
first, and the input is bit-characters in whole groups (43_encode.md R100). -/
theorem exists_bits_of_encodeBits {rom : Value → CharCode} {b : List CharCode} {r : Result}
    (h : encodeBits rom b = .ok r) :
    ∃ bits : List Bool, b = bits.map bitch ∧ bits.length % 6 = 0 ∧
      r = .clipString ((groupValues bits).map rom).reverse := by
  cases hp : parseBits b with
  | error e => simp [encodeBits, hp] at h
  | ok bits =>
    obtain rfl := eq_map_of_parseBits hp
    by_cases hlen : bits.length % 6 = 0
    · rw [encodeBits_map rom bits hlen, Except.ok.injEq] at h
      exact ⟨bits, rfl, hlen, h.symm⟩
    · simp [encodeBits_length rom bits hlen] at h

/-- A response is OK exactly when the computation gave its result. -/
theorem responseOf_eq_ok_iff (x : Except CodecError Result) (r : Result) : responseOf x = .ok r ↔ x = .ok r := by
  cases x <;> simp

theorem decodeClip_of_exec_dec {s : State} {cs : List CharCode} {r : Result}
    (h : exec (.dec cs) s = .next (s.answered (.ok r))) : decodeClip (romRead s.mem) cs = .ok r := by
  rwa [exec_dec, Host.Outcome.next.injEq, State.answered_inj, responseOf_eq_ok_iff] at h

theorem encodeBits_of_exec_enc {s : State} {b : List CharCode} {r : Result}
    (h : exec (.enc b) s = .next (s.answered (.ok r))) : encodeBits (romRead s.mem) b = .ok r := by
  rwa [exec_enc, Host.Outcome.next.injEq, State.answered_inj, responseOf_eq_ok_iff] at h

theorem length_flatMap_bits6 (vals : List Value) : (vals.flatMap bits6).length = 6 * vals.length := by
  simp [List.length_flatMap, Nat.mul_comm]

/-- Settles O20 by the engines' inversion lemmas: every value makes a group of six, and every group makes a symbol. -/
theorem answersHaveTheLawfulLength : Obligations.AnswersHaveTheLawfulLength := by
  constructor
  case left =>
    intro s cs b h
    obtain ⟨vals, rfl, hb⟩ := exists_values_of_decodeClip (decodeClip_of_exec_dec h)
    obtain rfl := Result.bitString.inj hb
    rw [length_flatMap_bits6, List.length_reverse, List.length_map]
  case right =>
    intro s b cs h
    obtain ⟨bits, rfl, hlen, hcs⟩ := exists_bits_of_encodeBits (encodeBits_of_exec_enc h)
    obtain rfl := Result.clipString.inj hcs
    rw [List.length_map, List.length_reverse, List.length_map, groupValues_length]
    exact ⟨hlen, rfl⟩

/-- Position `k` of a rendered group shows bit `5 - k` (41_bit_groups.md R82). -/
theorem bits6_getElem? (v : Value) {k : Nat} (hk : k ≤ 5) : (bits6 v)[k]? = some (bitch (v.getLsbD (5 - k))) := by
  interval_cases k <;> rfl

/-- Settles O8, position by position. -/
theorem groupRendererIsMsbFirst : Obligations.GroupRendererIsMsbFirst :=
  ⟨fun v => ⟨bits6_length v, fun _ => bits6_getElem? v⟩, rfl, rfl, rfl, rfl⟩

/-- The positional sum is at most 63, so six bits hold it (41_bit_groups.md R83). -/
theorem val6_toNat (g0 g1 g2 g3 g4 g5 : Bool) : (val6 g0 g1 g2 g3 g4 g5).toNat =
    32 * g0.toNat + 16 * g1.toNat + 8 * g2.toNat + 4 * g3.toNat + 2 * g4.toNat + g5.toNat := by
  have h0 := g0.toNat_le
  have h1 := g1.toNat_le
  have h2 := g2.toNat_le
  have h3 := g3.toNat_le
  have h4 := g4.toNat_le
  have h5 := g5.toNat_le
  rw [val6, BitVec.toNat_ofNat, Nat.mod_eq_of_lt (by omega)]

/-- Settles O9: the sum needs no reduction, and the bits of the value are the bits parsed. -/
theorem groupParserIsPositional : Obligations.GroupParserIsPositional := by
  refine ⟨fun g0 g1 g2 g3 g4 g5 => ⟨val6_toNat g0 g1 g2 g3 g4 g5, ?bits⟩, rfl, rfl, rfl, rfl⟩
  have hbits := valueBits_val6 g0 g1 g2 g3 g4 g5
  simpa only [valueBits, List.cons.injEq, and_true] using hbits

end Sys2Proof.Machine

/-! PROOFS. The decoder (42_decode.md): what `DEC` answers to symbols, to a sequence with a non-symbol and to nothing, and
the source's worked examples. -/

namespace Sys2Proof.Machine

/-- With distinct entries `DEC` of the symbols of some values answers their groups, the last value's first
(42_decode.md R90). -/
theorem exec_dec_map {s : State} (h : RomDistinct s.mem) (vals : List Value) :
    exec (.dec (vals.map (romRead s.mem))) s =
      .next (s.answered (.ok (.bitString (vals.reverse.flatMap bits6)))) := by
  rw [exec_dec, decodeClip_map h, responseOf_ok]

/-- `DEC` names the rightmost character that is no symbol, whatever stands to its left (42_decode.md R92). -/
theorem exec_dec_of_bad {s : State} {pre post : List CharCode} {c : CharCode} (hc : ¬ InRom s.mem c)
    (hpost : ∀ d ∈ post, InRom s.mem d) :
    exec (.dec (pre ++ c :: post)) s = .next (s.answered (.error (.invalidCharacter c))) := by
  rw [exec_dec, decodeClip_bad hc hpost, responseOf_error]

/-- Symbols render, also where entries repeat. -/
theorem exists_renderSeq_eq_ok {m : Memory} {cs : List CharCode} (h : ∀ c ∈ cs, InRom m c) :
    ∃ out, renderSeq (romRead m) cs = .ok out := by
  induction cs with
  | nil => exact ⟨[], rfl⟩
  | cons c cs ih =>
    obtain ⟨v, hv⟩ := indexOf_isSome_of_inRom (h c List.mem_cons_self)
    obtain ⟨out, hout⟩ := ih fun d hd => h d (List.mem_cons_of_mem c hd)
    exact ⟨bits6 v ++ out, by simp only [renderSeq, hv, hout]⟩

/-- `DEC` of symbols answers a bit string, for every alphabet. -/
theorem exists_exec_dec_of_inRom {s : State} {cs : List CharCode} (h : ∀ c ∈ cs, InRom s.mem c) :
    ∃ out, exec (.dec cs) s = .next (s.answered (.ok (.bitString out))) := by
  obtain ⟨out, hout⟩ := exists_renderSeq_eq_ok fun c hc => h c (List.mem_reverse.mp hc)
  exact ⟨out, by simp only [exec_dec, decodeClip, hout, responseOf_ok]⟩

/-- The inversion lemma of `DEC`'s errors: the input has a rightmost character that is no symbol, and the error is
`InvalidCharacter` of it (42_decode.md R92). -/
theorem exists_last_bad_of_exec_dec {s : State} {cs : List CharCode} {e : CodecError}
    (h : exec (.dec cs) s = .next (s.answered (.error e))) :
    ∃ pre ch post, cs = pre ++ ch :: post ∧ ¬ InRom s.mem ch ∧ (∀ d ∈ post, InRom s.mem d) ∧
      e = .invalidCharacter ch := by
  rcases symbols_or_last_bad s.mem cs with hall | ⟨pre, ch, post, rfl, hch, hpost⟩
  · obtain ⟨out, hout⟩ := exists_exec_dec_of_inRom hall
    simp [hout] at h
  · rw [exec_dec_of_bad hch hpost, Host.Outcome.next.injEq, State.answered_inj] at h
    exact ⟨pre, ch, post, rfl, hch, hpost, (Response.error.inj h).symm⟩

/-- Settles O11: symbols are rendered from the last to the first, and of the characters that are no symbols the rightmost
is the one named. -/
theorem decRendersSymbolsRightToLeft : Obligations.DecRendersSymbolsRightToLeft := by
  refine ⟨fun s vals hd => exec_dec_map hd vals, ?error⟩
  rintro s cs ⟨c, hc, hbad⟩
  rcases symbols_or_last_bad s.mem cs with hall | ⟨pre, ch, post, rfl, hch, hpost⟩
  · exact absurd (hall c hc) hbad
  · exact ⟨ch, List.mem_append_right pre List.mem_cons_self, hch, exec_dec_of_bad hch hpost⟩

/-- Settles O12: an error is always `InvalidCharacter` of the rightmost character that is no symbol. -/
theorem decReportsTheRightmostNonSymbol : Obligations.DecReportsTheRightmostNonSymbol := by
  refine ⟨fun s cs ch => ⟨?reported, ?reports⟩, fun s cs ch n => ?others⟩
  case reported =>
    intro h
    obtain ⟨pre, c, post, hcs, hc, hpost, he⟩ := exists_last_bad_of_exec_dec h
    obtain rfl := CodecError.invalidCharacter.inj he
    exact ⟨pre, post, hcs, hc, hpost⟩
  case reports =>
    rintro ⟨pre, post, rfl, hch, hpost⟩
    exact exec_dec_of_bad hch hpost
  case others =>
    constructor
    all_goals
      intro h
      obtain ⟨_, _, _, _, _, _, he⟩ := exists_last_bad_of_exec_dec h
      cases he

theorem decodeClip_nil (rom : Value → CharCode) : decodeClip rom [] = .ok (.bitString []) := rfl

theorem encodeBits_nil (rom : Value → CharCode) : encodeBits rom [] = .ok (.clipString []) := rfl

/-- Settles O22: nothing to look up and nothing to parse, so no search of the ROM and no error. -/
theorem emptyInputsGiveEmptyResults : Obligations.EmptyInputsGiveEmptyResults := fun s =>
  ⟨by rw [exec_dec, decodeClip_nil, responseOf_ok], by rw [exec_enc, encodeBits_nil, responseOf_ok]⟩

theorem RomIntact.exec_dec_map {s : State} (h : RomIntact s.mem) (vals : List Value) :
    exec (.dec (vals.map romReset)) s = .next (s.answered (.ok (.bitString (vals.reverse.flatMap bits6)))) := by
  rw [← h.eq, Machine.exec_dec_map h.distinct]

theorem RomIntact.exec_dec_of_not_isSymbol {s : State} (h : RomIntact s.mem) {c : CharCode} (hc : isSymbol c = false) :
    exec (.dec [c]) s = .next (s.answered (.error (.invalidCharacter c))) :=
  exec_dec_of_bad (pre := []) (by rw [h.inRom_iff, hc]; exact Bool.false_ne_true) (by simp)

theorem RomIntact.exec_enc_bits6 {s : State} (h : RomIntact s.mem) (vals : List Value) :
    exec (.enc (vals.flatMap bits6)) s = .next (s.answered (.ok (.clipString (vals.map romReset).reverse))) := by
  rw [exec_enc, encodeBits_bits6, h.eq, responseOf_ok]

/-- `ENC` of bit-characters with a group left over names their number (43_encode.md R102 (b)). -/
theorem exec_enc_of_ragged (s : State) {bs : List Bool} (h : bs.length % 6 ≠ 0) :
    exec (.enc (bs.map bitch)) s = .next (s.answered (.error (.invalidLength bs.length))) := by
  rw [exec_enc, encodeBits_length _ bs h, responseOf_error]

/-- Settles O23, vector by vector: each is the law of its operation at the operands of the vector. -/
theorem workedExamplesOfTheSource : Obligations.WorkedExamplesOfTheSource := by
  intro s hm
  obtain ⟨hdecEmpty, hencEmpty⟩ := emptyInputsGiveEmptyResults s
  have henc101 := exec_enc_of_ragged s (bs := [true, false, true]) (by decide)
  have henc102000 := exec_enc_of_bad (s := s) (pre := [0x31#8, 0x30#8]) (c := 0x32#8)
    (post := [0x30#8, 0x30#8, 0x30#8]) (by decide) (by decide)
  exact ⟨hm.exec_dec_map [0#6, 1#6], hm.exec_enc_bits6 [1#6, 0#6], hm.exec_dec_of_not_isSymbol (by decide), henc101,
    henc102000, hdecEmpty, hencEmpty, hm.exec_idxof 0#6, hm.exec_idxof 1#6, (bpcAnswersSix s).left⟩

end Sys2Proof.Machine

/-! PROOFS. The encoder (43_encode.md): what `ENC` answers to bit-characters in whole groups, to a ragged length and to a
character that is no bit-character, and `DEC` and `ENC` as inverses of each other. -/

namespace Sys2Proof.Machine

/-- `ENC` of the groups of some values answers their symbols, the last group's first (43_encode.md R100). -/
theorem exec_enc_flatMap_bits6 (s : State) (vals : List Value) :
    exec (.enc (vals.flatMap bits6)) s = .next (s.answered (.ok (.clipString (vals.map (romRead s.mem)).reverse))) := by
  rw [exec_enc, encodeBits_bits6, responseOf_ok]

/-- Bits in whole groups, written as characters, are the groups of the values parsed. -/
theorem flatMap_bits6_groupValues {bits : List Bool} (h : bits.length % 6 = 0) :
    (groupValues bits).flatMap bits6 = bits.map bitch := by
  calc (groupValues bits).flatMap bits6 = ((groupValues bits).flatMap valueBits).map bitch := by
        rw [List.map_flatMap]; rfl
    _ = bits.map bitch := by rw [flatMap_groupValues bits h]

/-- Bit-characters in whole groups are the groups of some values (43_encode.md R100). -/
theorem exists_values_of_isBitChar {b : List CharCode} (hlen : b.length % 6 = 0) (hb : ∀ c ∈ b, isBitChar c = true) :
    ∃ vals : List Value, b = vals.flatMap bits6 := by
  obtain ⟨bits, rfl⟩ := exists_bits hb
  rw [List.length_map] at hlen
  exact ⟨groupValues bits, (flatMap_bits6_groupValues hlen).symm⟩

/-- Settles O19: symbols are the symbols of some values and whole groups the groups of some values, and each engine reverses
the order of the values, so the two together restore it. -/
theorem encoderAndDecoderInvertEachOther : Obligations.EncoderAndDecoderInvertEachOther := by
  constructor
  case left =>
    intro s s' cs hd hmem hcs
    obtain ⟨vals, rfl⟩ := exists_values hcs
    refine ⟨_, exec_dec_map hd vals, ?_⟩
    rw [exec_enc_flatMap_bits6, hmem, List.map_reverse, List.reverse_reverse]
  case right =>
    intro s s' b hd hmem hlen hb
    obtain ⟨vals, rfl⟩ := exists_values_of_isBitChar hlen fun c hc => (isBitChar_iff_eq c).mpr (hb c hc)
    refine ⟨_, exec_enc_flatMap_bits6 s vals, ?_⟩
    rw [← hmem] at hd ⊢
    rw [← List.map_reverse, exec_dec_map hd, List.reverse_reverse]

/-- Position `j` of group `k` shows bit `5 - j` of the group's value (41_bit_groups.md R82). -/
theorem flatMap_bits6_getElem? {vals : List Value} {k j : Nat} {v : Value} (hv : vals[k]? = some v) (hj : j ≤ 5) :
    (vals.flatMap bits6)[6 * k + j]? = some (bitch (v.getLsbD (5 - j))) := by
  induction vals generalizing k with
  | nil => cases hv
  | cons u us ih =>
    rw [List.flatMap_cons]
    cases k with
    | zero =>
      obtain rfl : u = v := Option.some.inj hv
      rw [Nat.mul_zero, Nat.zero_add, List.getElem?_append_left (Nat.lt_succ_of_le hj), bits6_getElem? u hj]
    | succ k =>
      have hpos : 6 * (k + 1) + j = (bits6 u).length + (6 * k + j) := by rw [bits6_length]; omega
      rw [hpos, List.getElem?_append_right (Nat.le_add_right _ _), Nat.add_sub_cancel_left]
      exact ih hv

/-- A bit's character is `1` exactly when the bit is set (41_bit_groups.md R80). -/
theorem some_bitch_beq_one (b : Bool) : (some (bitch b) == some 0x31#8) = b := by
  cases b <;> rfl

/-- Parsing the six characters from position `6 k` gives the value of group `k` (41_bit_groups.md R83). -/
theorem val6_flatMap_bits6 {vals : List Value} {k : Nat} {v : Value} (hv : vals[k]? = some v) {b : List CharCode}
    (hb : b = vals.flatMap bits6) :
    val6 (b[6 * k]? == some 0x31#8) (b[6 * k + 1]? == some 0x31#8) (b[6 * k + 2]? == some 0x31#8)
      (b[6 * k + 3]? == some 0x31#8) (b[6 * k + 4]? == some 0x31#8) (b[6 * k + 5]? == some 0x31#8) = v := by
  have hbit {j : Nat} (hj : j ≤ 5) : (b[6 * k + j]? == some 0x31#8) = v.getLsbD (5 - j) := by
    rw [hb, flatMap_bits6_getElem? hv hj, some_bitch_beq_one]
  have hfirst := hbit (Nat.zero_le 5)
  rw [Nat.add_zero] at hfirst
  rw [hfirst, hbit (j := 1) (by decide), hbit (j := 2) (by decide), hbit (j := 3) (by decide), hbit (j := 4) (by decide),
    hbit (j := 5) (by decide)]
  exact val6_bits v

/-- Position `i` of the symbols in reverse order is the symbol of the value at `n - 1 - i`. -/
theorem getElem?_reverse_map {rom : Value → CharCode} {vals : List Value} {i : Nat} (hi : i < vals.length) :
    ∃ v, vals[vals.length - 1 - i]? = some v ∧ (vals.map rom).reverse[i]? = some (rom v) := by
  have hk : vals.length - 1 - i < vals.length := by omega
  refine ⟨_, List.getElem?_eq_getElem hk, ?_⟩
  rw [← List.map_reverse, List.getElem?_map, List.getElem?_reverse hi, List.getElem?_eq_getElem hk, Option.map_some]

/-- Only bit-characters in whole groups are answered with a clip string (43_encode.md R100). -/
theorem isBitChar_of_exec_enc_ok {s : State} {b : List CharCode} {r : Result}
    (h : exec (.enc b) s = .next (s.answered (.ok r))) : (∀ c ∈ b, isBitChar c = true) ∧ b.length % 6 = 0 := by
  obtain ⟨bits, rfl, hlen, -⟩ := exists_bits_of_encodeBits (encodeBits_of_exec_enc h)
  exact ⟨List.forall_mem_map.mpr fun bit _ => isBitChar_bitch bit, by rwa [List.length_map]⟩

/-- Settles O15: the input is the groups of `n` values, the answer is their symbols reversed, and the inversion lemma of OK
answers excludes every other input. -/
theorem encMapsGroupsRightToLeft : Obligations.EncMapsGroupsRightToLeft := by
  constructor
  case left =>
    intro s n b hlen hb
    obtain ⟨vals, hvals⟩ := exists_values_of_isBitChar (hlen ▸ Nat.mul_mod_right 6 n)
      fun c hc => (isBitChar_iff_eq c).mpr (hb c hc)
    obtain rfl : vals.length = n := by
      rw [hvals, length_flatMap_bits6] at hlen
      omega
    refine ⟨(vals.map (romRead s.mem)).reverse, ?answer, by rw [List.length_reverse, List.length_map], ?position⟩
    case answer => rw [hvals, exec_enc_flatMap_bits6]
    case position =>
      intro i hi
      obtain ⟨v, hv, ht⟩ := getElem?_reverse_map (rom := romRead s.mem) hi
      rw [ht, val6_flatMap_bits6 hv hvals]
  case right =>
    intro s b t hbad h
    obtain ⟨hchars, hlen⟩ := isBitChar_of_exec_enc_ok h
    rcases hbad with ⟨c, hc, h0, h1⟩ | hragged
    · exact ((isBitChar_iff_eq c).mp (hchars c hc)).elim h0 h1
    · exact hragged hlen

theorem isBitChar_eq_false_iff (c : CharCode) : isBitChar c = false ↔ c ≠ 0x30#8 ∧ c ≠ 0x31#8 := by
  rw [← Bool.not_eq_true, isBitChar_iff_eq, not_or]

/-- Settles O16: the bad character stops the parse, and the length is never looked at. -/
theorem encChecksCharactersBeforeLength : Obligations.EncChecksCharactersBeforeLength :=
  fun _ _ _ ch hpre h0 h1 =>
    exec_enc_of_bad (fun d hd => (isBitChar_iff_eq d).mpr (hpre d hd)) ((isBitChar_eq_false_iff ch).mpr ⟨h0, h1⟩)

/-- The inversion lemma of `ENC`'s errors: `InvalidBit` of the leftmost character that is no bit-character, or, when there
is none, `InvalidLength` of a length that is no whole number of groups (43_encode.md R102). -/
theorem bad_or_ragged_of_exec_enc {s : State} {b : List CharCode} {e : CodecError}
    (h : exec (.enc b) s = .next (s.answered (.error e))) :
    (∃ pre ch post, b = pre ++ ch :: post ∧ (∀ d ∈ pre, isBitChar d = true) ∧ isBitChar ch = false ∧
      e = .invalidBit ch) ∨
    ((∀ c ∈ b, isBitChar c = true) ∧ b.length % 6 ≠ 0 ∧ e = .invalidLength b.length) := by
  rcases first_bad isBitChar b with hall | ⟨pre, ch, post, rfl, hpre, hch⟩
  · refine .inr ⟨hall, ?_⟩
    obtain ⟨bits, rfl⟩ := exists_bits hall
    rw [List.length_map]
    by_cases hlen : bits.length % 6 = 0
    · simp [exec_enc, encodeBits_map _ bits hlen] at h
    · rw [exec_enc_of_ragged s hlen, Host.Outcome.next.injEq, State.answered_inj] at h
      exact ⟨hlen, (Response.error.inj h).symm⟩
  · rw [exec_enc_of_bad hpre hch, Host.Outcome.next.injEq, State.answered_inj] at h
    exact .inl ⟨pre, ch, post, rfl, hpre, hch, (Response.error.inj h).symm⟩

theorem exec_enc_eq_invalidBit_iff (s : State) (b : List CharCode) (ch : CharCode) :
    exec (.enc b) s = .next (s.answered (.error (.invalidBit ch))) ↔
      ∃ pre post, b = pre ++ ch :: post ∧ (∀ d ∈ pre, isBitChar d = true) ∧ isBitChar ch = false := by
  constructor
  · intro h
    rcases bad_or_ragged_of_exec_enc h with ⟨pre, c, post, hb, hpre, hc, he⟩ | ⟨-, -, he⟩
    · obtain rfl := CodecError.invalidBit.inj he
      exact ⟨pre, post, hb, hpre, hc⟩
    · cases he
  · rintro ⟨pre, post, rfl, hpre, hch⟩
    exact exec_enc_of_bad hpre hch

theorem exec_enc_eq_invalidLength_iff (s : State) (b : List CharCode) (n : Nat) :
    exec (.enc b) s = .next (s.answered (.error (.invalidLength n))) ↔
      (∀ c ∈ b, isBitChar c = true) ∧ n = b.length ∧ b.length % 6 ≠ 0 := by
  constructor
  · intro h
    rcases bad_or_ragged_of_exec_enc h with ⟨_, _, _, -, -, -, he⟩ | ⟨hall, hlen, he⟩
    · cases he
    · exact ⟨hall, CodecError.invalidLength.inj he, hlen⟩
  · rintro ⟨hall, rfl, hlen⟩
    obtain ⟨bits, rfl⟩ := exists_bits hall
    rw [List.length_map] at hlen ⊢
    exact exec_enc_of_ragged s hlen

theorem exec_enc_ne_invalidCharacter (s : State) (b : List CharCode) (ch : CharCode) :
    exec (.enc b) s ≠ .next (s.answered (.error (.invalidCharacter ch))) := by
  intro h
  rcases bad_or_ragged_of_exec_enc h with ⟨_, _, _, -, -, -, he⟩ | ⟨-, -, he⟩
  · cases he
  · cases he

/-- Settles O17, clause by clause: each error's own law, with the bit-characters written out. -/
theorem encErrorsAndTheirPayloads : Obligations.EncErrorsAndTheirPayloads := by
  unfold Obligations.EncErrorsAndTheirPayloads
  simp only [← isBitChar_iff_eq, ← isBitChar_eq_false_iff]
  exact ⟨exec_enc_eq_invalidBit_iff, exec_enc_eq_invalidLength_iff, exec_enc_ne_invalidCharacter⟩

end Sys2Proof.Machine

/-! PROOFS. The outcomes (60_exceptions.md): which response each operation gives, and the fields of a response. -/

namespace Sys2Proof.Machine

/-- `IDXOF` of an entry answers a value, also where entries repeat. -/
theorem exists_exec_idxof_of_inRom {s : State} {c : CharCode} (h : InRom s.mem c) :
    ∃ v, exec (.idxof c) s = .next (s.answered (.ok (.value v))) := by
  obtain ⟨v, hv⟩ := indexOf_isSome_of_inRom h
  exact ⟨v, by rw [exec_idxof, lookup, hv, responseOf_ok]⟩

/-- `DEC` of a sequence with a non-symbol answers `InvalidCharacter`. -/
theorem exists_exec_dec_invalidCharacter {s : State} {cs : List CharCode} (h : ∃ c ∈ cs, ¬ InRom s.mem c) :
    ∃ ch, exec (.dec cs) s = .next (s.answered (.error (.invalidCharacter ch))) := by
  obtain ⟨ch, -, -, hch⟩ := decRendersSymbolsRightToLeft.right s cs h
  exact ⟨ch, hch⟩

/-- `ENC` of bit-characters in whole groups answers a clip string. -/
theorem exists_exec_enc_clipString (s : State) {b : List CharCode} (hb : ∀ c ∈ b, isBitChar c = true)
    (hlen : b.length % 6 = 0) : ∃ t, exec (.enc b) s = .next (s.answered (.ok (.clipString t))) := by
  obtain ⟨vals, rfl⟩ := exists_values_of_isBitChar hlen hb
  exact ⟨_, exec_enc_flatMap_bits6 s vals⟩

/-- `ENC` of a sequence with a character that is no bit-character answers `InvalidBit`, whatever its length. -/
theorem exists_exec_enc_invalidBit (s : State) {b : List CharCode} (h : ∃ c ∈ b, isBitChar c = false) :
    ∃ ch, exec (.enc b) s = .next (s.answered (.error (.invalidBit ch))) := by
  obtain ⟨c, hc, hbad⟩ := h
  rcases first_bad isBitChar b with hall | ⟨pre, ch, post, rfl, hpre, hch⟩
  · cases hbad.symm.trans (hall c hc)
  · exact ⟨ch, exec_enc_of_bad hpre hch⟩

/-- Settles O26, operation by operation: the law of each outcome, with the bit-characters written out. -/
theorem outcomeTable : Obligations.OutcomeTable := by
  unfold Obligations.OutcomeTable
  simp only [← isBitChar_iff_eq, ← isBitChar_eq_false_iff]
  refine fun s => ⟨fun v => ⟨_, exec_symat v s⟩, ?idxof, ?dec, ?enc, (bpcAnswersSix s).left⟩
  case idxof => exact fun _ => ⟨exists_exec_idxof_of_inRom, exec_idxof_of_not_inRom⟩
  case dec => exact fun _ => ⟨exists_exec_dec_of_inRom, exists_exec_dec_invalidCharacter⟩
  case enc =>
    exact fun b => ⟨exists_exec_enc_clipString s, exists_exec_enc_invalidBit s,
      fun hb hlen => (exec_enc_eq_invalidLength_iff s b b.length).mpr ⟨hb, rfl, hlen⟩⟩

/-- Settles O27, kind by kind: each field is defined by the kind of the response. -/
theorem responseFields : Obligations.ResponseFields :=
  ⟨fun _ => ⟨rfl, rfl, rfl⟩, fun _ => ⟨rfl, rfl, rfl⟩, fun _ => ⟨rfl, rfl, rfl⟩, fun _ => ⟨rfl, rfl, rfl⟩⟩

end Sys2Proof.Machine

/-! PROOFS. The permitted tails of the ROM (10_state.md R14), and the rows of kind rom_entry (10_state.md R24, log 4) and
of kind status_code (log 3) as instructions. -/

namespace Sys2Proof.Machine

theorem romTails_nodup : romTails.Nodup := by decide

theorem romTail_injective {j k : Fin 18} (h : romTail j = romTail k) : j = k :=
  Fin.ext (romTails_nodup.getElem_inj_iff.mp h)

theorem exists_romTail_of_mem {t : Tail} (h : t ∈ romTails) : ∃ k, romTail k = t := by
  obtain ⟨n, hn, ht⟩ := List.getElem_of_mem h
  exact ⟨⟨n, hn⟩, ht⟩

/-- The 24 orders of `w x y z`, gone through one by one: those that do not begin with `w` are listed. -/
theorem mem_romTails_of_mem_permutations' : ∀ l ∈ List.permutations' [0x77#8, 0x78#8, 0x79#8, 0x7A#8],
    l.head? ≠ some 0x77#8 → l ∈ romTails.map fun t => [t.t0, t.t1, t.t2, t.t3] := by
  decide

/-- Every permitted order of the four symbols is one of the listed (10_state.md R14). -/
theorem mem_romTails_of_perm {t : Tail} (hperm : [t.t0, t.t1, t.t2, t.t3].Perm [0x77#8, 0x78#8, 0x79#8, 0x7A#8])
    (hfirst : t.t0 ≠ 0x77#8) : t ∈ romTails := by
  have hlisted := mem_romTails_of_mem_permutations' _ (List.mem_permutations'.mpr hperm) (by simpa using hfirst)
  obtain ⟨u, hu, heq⟩ := List.mem_map.mp hlisted
  obtain rfl : u = t := by cases u; cases t; simpa using heq
  exact hu

/-- Settles O2: each listed order is permitted, none is listed twice, and every permitted one is listed. -/
theorem tailChoicesAreExactlyThePermittedPermutations : Obligations.TailChoicesAreExactlyThePermittedPermutations :=
  ⟨fun k => ⟨romTail_perm k, romTail_t0_ne_w k⟩, fun _ _ => romTail_injective,
    fun _ hperm hfirst => exists_romTail_of_mem (mem_romTails_of_perm hperm hfirst)⟩

theorem romRows_map_answerOf (rom : Value → CharCode) :
    romRows.map (answerOf rom) = allValues.map fun v => some (.ok (.char (rom v))) := rfl

/-- The row of address `v` answers the entry at `v`. -/
theorem answerOf_romRow (rom : Value → CharCode) (v : Value) :
    answerOf rom (romRow v) = some (.ok (.char (rom v))) := by
  have h := congrArg (·[v.toNat]?) (romRows_map_answerOf rom)
  simpa [romRow, allValues, romRows_length, v.isLt] using h

theorem RomIntact.exec_romRow {s : State} (h : RomIntact s.mem) (v : Value) :
    exec (romRow v) s = .next (s.answered (.ok (.char (romReset v)))) := by
  rw [exec_of_answerOf (answerOf_romRow _ v), h v]

/-- Settles O30, address by address. -/
theorem romRowsOfUppercaseLetters : Obligations.RomRowsOfUppercaseLetters := fun _ hm =>
  ⟨hm.exec_romRow 0#6, hm.exec_romRow 1#6, hm.exec_romRow 2#6, hm.exec_romRow 3#6, hm.exec_romRow 4#6,
    hm.exec_romRow 5#6, hm.exec_romRow 6#6, hm.exec_romRow 7#6, hm.exec_romRow 8#6, hm.exec_romRow 9#6,
    hm.exec_romRow 10#6, hm.exec_romRow 11#6, hm.exec_romRow 12#6, hm.exec_romRow 13#6, hm.exec_romRow 14#6,
    hm.exec_romRow 15#6, hm.exec_romRow 16#6, hm.exec_romRow 17#6, hm.exec_romRow 18#6, hm.exec_romRow 19#6,
    hm.exec_romRow 20#6, hm.exec_romRow 21#6, hm.exec_romRow 22#6, hm.exec_romRow 23#6, hm.exec_romRow 24#6,
    hm.exec_romRow 25#6⟩

/-- Settles O31, address by address. -/
theorem romRowsOfLowercaseLetters : Obligations.RomRowsOfLowercaseLetters := fun _ hm =>
  ⟨hm.exec_romRow 26#6, hm.exec_romRow 27#6, hm.exec_romRow 28#6, hm.exec_romRow 29#6, hm.exec_romRow 30#6,
    hm.exec_romRow 31#6, hm.exec_romRow 32#6, hm.exec_romRow 33#6, hm.exec_romRow 34#6, hm.exec_romRow 35#6,
    hm.exec_romRow 36#6, hm.exec_romRow 37#6, hm.exec_romRow 38#6, hm.exec_romRow 39#6, hm.exec_romRow 40#6,
    hm.exec_romRow 41#6, hm.exec_romRow 42#6, hm.exec_romRow 43#6, hm.exec_romRow 44#6, hm.exec_romRow 45#6,
    hm.exec_romRow 46#6, hm.exec_romRow 47#6⟩

/-- Settles O32: the four rows answer the tail of the choice, which is a permitted order. -/
theorem romRowsOfTheOpenTail : Obligations.RomRowsOfTheOpenTail := fun _ hm =>
  ⟨_, _, _, _, romTail_perm Config.romTailChoice, romTail_t0_ne_w Config.romTailChoice, hm.exec_romRow 48#6,
    hm.exec_romRow 49#6, hm.exec_romRow 50#6, hm.exec_romRow 51#6⟩

/-- Settles O33, address by address. -/
theorem romRowsOfDigitsAndPunctuation : Obligations.RomRowsOfDigitsAndPunctuation := fun _ hm =>
  ⟨hm.exec_romRow 52#6, hm.exec_romRow 53#6, hm.exec_romRow 54#6, hm.exec_romRow 55#6, hm.exec_romRow 56#6,
    hm.exec_romRow 57#6, hm.exec_romRow 58#6, hm.exec_romRow 59#6, hm.exec_romRow 60#6, hm.exec_romRow 61#6,
    hm.exec_romRow 62#6, hm.exec_romRow 63#6⟩

theorem exec_statusOk (r : Result) (s : State) : exec (.statusOk r) s = .next (s.answered (.ok r)) := rfl
theorem exec_statusInvalidCharacter (ch : CharCode) (s : State) :
    exec (.statusInvalidCharacter ch) s = .next (s.answered (.error (.invalidCharacter ch))) := rfl
theorem exec_statusInvalidBit (ch : CharCode) (s : State) :
    exec (.statusInvalidBit ch) s = .next (s.answered (.error (.invalidBit ch))) := rfl
theorem exec_statusInvalidLength (len : Nat) (s : State) :
    exec (.statusInvalidLength len) s = .next (s.answered (.error (.invalidLength len))) := rfl

/-- Settles O28, row by row (log 3). -/
theorem statusRowsEndTheTransaction : Obligations.StatusRowsEndTheTransaction := fun s =>
  ⟨fun r => exec_statusOk r s, fun ch => exec_statusInvalidCharacter ch s, fun ch => exec_statusInvalidBit ch s,
    fun len => exec_statusInvalidLength len s⟩

end Sys2Proof.Machine

/-! PROOFS. The bit groups (41_bit_groups.md) and the engines (42_decode.md, 43_encode.md): rendering keeps the order,
where each bit of an answer comes from, the order of parts, and different inputs. -/

namespace Sys2Proof.Machine

theorem bitch_lt_bitch_iff (a b : Bool) : bitch a < bitch b ↔ a.toNat < b.toNat := by revert a b; decide

theorem bitch_eq_bitch_iff (a b : Bool) : bitch a = bitch b ↔ a.toNat = b.toNat := by revert a b; decide

/-- A value is the positional sum of its bits (41_bit_groups.md R83). -/
theorem toNat_eq_sum (v : Value) : v.toNat = 32 * (v.getLsbD 5).toNat + 16 * (v.getLsbD 4).toNat +
    8 * (v.getLsbD 3).toNat + 4 * (v.getLsbD 2).toNat + 2 * (v.getLsbD 1).toNat + (v.getLsbD 0).toNat := by
  rw [← val6_toNat, val6_bits]

theorem bits_le_one (v : Value) : (v.getLsbD 5).toNat ≤ 1 ∧ (v.getLsbD 4).toNat ≤ 1 ∧ (v.getLsbD 3).toNat ≤ 1 ∧
    (v.getLsbD 2).toNat ≤ 1 ∧ (v.getLsbD 1).toNat ≤ 1 ∧ (v.getLsbD 0).toNat ≤ 1 :=
  ⟨Bool.toNat_le _, Bool.toNat_le _, Bool.toNat_le _, Bool.toNat_le _, Bool.toNat_le _, Bool.toNat_le _⟩

/-- The leftmost bit in which two values differ decides between them, since it outweighs the bits to its right
(41_bit_groups.md, group laws). -/
theorem lt_iff_lex_bits6 (u v : Value) : u < v ↔ List.Lex (fun a b : CharCode => a < b) (bits6 u) (bits6 v) := by
  have hu := bits_le_one u
  have hv := bits_le_one v
  rw [BitVec.lt_def, toNat_eq_sum u, toNat_eq_sum v]
  simp only [bits6, List.cons_lex_cons_iff, bitch_lt_bitch_iff, bitch_eq_bitch_iff, List.not_lex_nil,
    and_false, or_false]
  omega

theorem bitch_injective : Function.Injective bitch := fun a b h => by
  rw [← Option.some_inj, ← bitval_bitch a, h, bitval_bitch]

/-- Different values have different groups (41_bit_groups.md, group laws). -/
theorem bits6_injective : Function.Injective bits6 := fun u v h => by
  have hbits : valueBits u = valueBits v := bitch_injective.list_map h
  have hvalues := congrArg groupValues hbits
  exact List.singleton_inj.mp ((groupValues_valueBits [u]).symm.trans (hvalues.trans (groupValues_valueBits [v])))

/-- Settles O10: the parser and the renderer invert each other, and the order is decided bit by bit. -/
theorem groupRenderingIsAnOrderedBijection : Obligations.GroupRenderingIsAnOrderedBijection :=
  ⟨val6_bits, fun g0 g1 g2 g3 g4 g5 => congrArg (List.map bitch) (valueBits_val6 g0 g1 g2 g3 g4 g5),
    fun _ _ h => bits6_injective h, lt_iff_lex_bits6⟩

/-- Where entries are distinct, the values of symbols are determined: those at a position are the value of the symbol
there. -/
theorem getElem?_of_getElem?_map {m : Memory} (h : RomDistinct m) {vals : List Value} {n : Nat} {v : Value}
    (hv : (vals.map (romRead m))[n]? = some (romRead m v)) : vals[n]? = some v := by
  rw [List.getElem?_map] at hv
  obtain ⟨u, hu, huv⟩ := Option.map_eq_some_iff.mp hv
  rw [hu, h u v huv]

/-- Settles O13: position `p` lies in the group of position `p / 6` counted from the right, and shows bit `5 - p % 6`. -/
theorem decPositionLaw : Obligations.DecPositionLaw := by
  intro s cs hd hcs
  obtain ⟨vals, rfl⟩ := exists_values hcs
  refine ⟨_, exec_dec_map hd vals, ?length, ?position⟩
  case length => rw [length_flatMap_bits6, List.length_reverse, List.length_map]
  case position =>
    intro p v hp hv
    rw [length_flatMap_bits6, List.length_reverse] at hp
    have hk : p / 6 < vals.length := by omega
    rw [List.length_map] at hv
    have hgroup : vals.reverse[p / 6]? = some v := by
      rw [List.getElem?_reverse hk, getElem?_of_getElem?_map hd hv]
    have hbit := flatMap_bits6_getElem? hgroup (j := p % 6) (by omega)
    rwa [Nat.div_add_mod] at hbit

theorem renderSeq_append {rom : Value → CharCode} {cs ds a b : List CharCode} (hcs : renderSeq rom cs = .ok a)
    (hds : renderSeq rom ds = .ok b) : renderSeq rom (cs ++ ds) = .ok (a ++ b) := by
  induction cs generalizing a with
  | nil => cases hcs; exact hds
  | cons c cs ih =>
    simp only [renderSeq] at hcs
    cases hv : indexOf rom c with
    | none => simp [hv] at hcs
    | some v =>
      cases ht : renderSeq rom cs with
      | error e => simp [hv, ht] at hcs
      | ok tail =>
        obtain rfl : bits6 v ++ tail = a := by simpa only [hv, ht, Except.ok.injEq] using hcs
        simp only [List.cons_append, renderSeq, hv, ih ht, List.append_assoc]

theorem exec_dec_of_renderSeq {s : State} {cs out : List CharCode} (h : renderSeq (romRead s.mem) cs.reverse = .ok out) :
    exec (.dec cs) s = .next (s.answered (.ok (.bitString out))) := by
  rw [exec_dec, decodeClip, h, responseOf_ok]

/-- Settles O14: the right part is rendered first, and rendering goes part by part (42_decode.md, laws of DEC (d)). -/
theorem decReversesTheOrderOfParts : Obligations.DecReversesTheOrderOfParts := by
  intro s cs ds hcs hds
  obtain ⟨a, ha⟩ := exists_renderSeq_eq_ok fun c hc => hcs c (List.mem_reverse.mp hc)
  obtain ⟨b, hb⟩ := exists_renderSeq_eq_ok fun d hd => hds d (List.mem_reverse.mp hd)
  refine ⟨a, b, exec_dec_of_renderSeq ha, exec_dec_of_renderSeq hb, exec_dec_of_renderSeq ?_⟩
  rw [List.reverse_append, renderSeq_append hb ha]

/-- Settles O18: the groups of the parts follow each other, and their symbols come in the opposite order. -/
theorem encReversesTheOrderOfParts : Obligations.EncReversesTheOrderOfParts := by
  intro s a b ha hb hlena hlenb
  obtain ⟨us, rfl⟩ := exists_values_of_isBitChar hlena fun c hc => (isBitChar_iff_eq c).mpr (ha c hc)
  obtain ⟨vs, rfl⟩ := exists_values_of_isBitChar hlenb fun c hc => (isBitChar_iff_eq c).mpr (hb c hc)
  refine ⟨_, _, exec_enc_flatMap_bits6 s us, exec_enc_flatMap_bits6 s vs, ?_⟩
  rw [← List.flatMap_append, exec_enc_flatMap_bits6, List.map_append, List.reverse_append]

/-- `ENC` of an answer of `DEC` gives the input back, also where entries repeat. -/
theorem exec_enc_of_exec_dec {s : State} {cs b : List CharCode}
    (h : exec (.dec cs) s = .next (s.answered (.ok (.bitString b)))) :
    exec (.enc b) s = .next (s.answered (.ok (.clipString cs))) := by
  obtain ⟨vals, rfl, hb⟩ := exists_values_of_decodeClip (decodeClip_of_exec_dec h)
  rw [Result.bitString.inj hb, exec_enc_flatMap_bits6, List.map_reverse, List.reverse_reverse]

/-- With distinct entries `DEC` of an answer of `ENC` gives the input back. -/
theorem exec_dec_of_exec_enc {s : State} {b t : List CharCode} (hd : RomDistinct s.mem)
    (h : exec (.enc b) s = .next (s.answered (.ok (.clipString t)))) :
    exec (.dec t) s = .next (s.answered (.ok (.bitString b))) := by
  obtain ⟨hb, hlen⟩ := isBitChar_of_exec_enc_ok h
  obtain ⟨vals, rfl⟩ := exists_values_of_isBitChar hlen hb
  simp only [exec_enc_flatMap_bits6, Host.Outcome.next.injEq, State.answered_inj, Response.ok.injEq,
    Result.clipString.injEq] at h
  rw [← h, ← List.map_reverse, exec_dec_map hd, List.reverse_reverse]

/-- Settles O21: each input can be had back from its answer by the other engine. -/
theorem enginesAreInjectiveOnValidInputs : Obligations.EnginesAreInjectiveOnValidInputs := by
  constructor
  case left =>
    intro s cs ds b hcs hds
    simpa using (exec_enc_of_exec_dec hcs).symm.trans (exec_enc_of_exec_dec hds)
  case right =>
    intro s a b t hd ha hb
    simpa using (exec_dec_of_exec_enc hd ha).symm.trans (exec_dec_of_exec_enc hd hb)

/-- Settles O24: the engines' laws at one value. -/
theorem enginesOnOneSymbolAreTheLookups : Obligations.EnginesOnOneSymbolAreTheLookups :=
  ⟨fun s v => exec_enc_flatMap_bits6 s [v], fun _ v hd => exec_dec_map hd [v]⟩

/-- A blank is neither a symbol nor a bit-character (30_encoding.md R61). -/
theorem not_symbol_not_bit_of_whitespace {w : CharCode} (h : w ∈ [0x20#8, 0x09#8, 0x0A#8]) :
    isSymbol w = false ∧ isBitChar w = false := by
  revert w; decide

theorem isSymbol_of_uppercase {c : CharCode} (hlo : 0x41 ≤ c.toNat) (hhi : c.toNat ≤ 0x5A) :
    isSymbol c = true ∧ isSymbol (c + 0x20#8) = true := by
  rw [isSymbol_iff, isSymbol_iff]
  bv_omega

/-- Settles O25: a blank is no character of either alphabet, and a letter and its other case are two entries. -/
theorem whitespaceIsAnErrorAndLetterCasesDiffer : Obligations.WhitespaceIsAnErrorAndLetterCasesDiffer := by
  constructor
  case left =>
    intro s pre post w hm hw
    obtain ⟨hsymbol, hbit⟩ := not_symbol_not_bit_of_whitespace hw
    have hmem : w ∈ pre ++ w :: post := List.mem_append_right pre List.mem_cons_self
    have hrom : ¬ InRom s.mem w := by rw [hm.inRom_iff, hsymbol]; exact Bool.false_ne_true
    exact ⟨exists_exec_dec_invalidCharacter ⟨w, hmem, hrom⟩, exists_exec_enc_invalidBit s ⟨w, hmem, hbit⟩⟩
  case right =>
    intro s c hm hlo hhi
    obtain ⟨hupper, hlower⟩ := isSymbol_of_uppercase hlo hhi
    obtain ⟨u, hu⟩ := (hm.inRom_iff c).mpr hupper
    obtain ⟨v, hv⟩ := (hm.inRom_iff (c + 0x20#8)).mpr hlower
    refine ⟨u, v, hu ▸ exec_idxof_romRead hm.distinct u, hv ▸ exec_idxof_romRead hm.distinct v, ?_⟩
    rintro rfl
    rw [hu] at hv
    bv_omega

end Sys2Proof.Machine

/-! PROOFS. The byte layout (30_encoding.md): the decoder and the encoder as inverses of each other, and the codes of the
table's rows. -/

namespace Sys2Proof

theorem decode_cons_of_decodeFormat {b : Byte} {bs rest : List Byte} {i : Instr}
    (hf : decodeFormat b bs = .ok (i, rest)) (hwf : i.wf = true) : decode (b :: bs) = .ok (i, rest) := by
  simp only [decode, hf, hwf, if_true]

/-- Settles O46, row by row: the first byte selects the row, and each operand decodes from its own bytes. -/
theorem decodeInvertsEncode : Obligations.DecodeInvertsEncode := by
  intro i rest hwf
  cases i
  case symat v => exact decode_cons_of_decodeFormat (congrArg (operand Instr.symat) (decodeValue_encodeValue v rest)) hwf
  case dec s => exact decode_cons_of_decodeFormat (congrArg (operand Instr.dec) (decodeSeq_encodeSeq s rest)) hwf
  case enc b => exact decode_cons_of_decodeFormat (congrArg (operand Instr.enc) (decodeSeq_encodeSeq b rest)) hwf
  case statusOk r =>
    exact decode_cons_of_decodeFormat (congrArg (operand Instr.statusOk) (decodeResult_encodeResult r rest)) hwf
  case statusInvalidLength len =>
    exact decode_cons_of_decodeFormat (congrArg (operand Instr.statusInvalidLength) (decodeNat_encodeNat len rest)) hwf
  all_goals exact decode_cons_of_decodeFormat rfl hwf

/-- Bytes written out as an instruction's encoding and what follows it decode to that instruction. -/
theorem decode_of_eq_encode {bs rest : List Byte} {i : Instr} (hbs : bs = encode i ++ rest) (hwf : i.wf = true) :
    decode bs = .ok (i, rest) := by
  rw [hbs, decodeInvertsEncode i rest hwf]

/-- Settles O48: the bytes of each row are its encoding, so they decode to it. -/
theorem tableCodesDecodeToTheirRows : Obligations.TableCodesDecodeToTheirRows := by
  unfold Obligations.TableCodesDecodeToTheirRows
  and_intros
  all_goals intros; and_intros
  all_goals exact decode_of_eq_encode rfl rfl

theorem decodeFormat_of_decode_cons {b : Byte} {bs rest : List Byte} {i : Instr}
    (h : decode (b :: bs) = .ok (i, rest)) : decodeFormat b bs = .ok (i, rest) := by
  cases hf : decodeFormat b bs with
  | error e => simp [decode, hf] at h
  | ok p =>
    simp only [decode, hf] at h
    split at h
    · exact h
    · cases h

/-- A decoded request was encoded with its op-select code first (30_encoding.md R56, R60). -/
theorem eq_encode_of_decodeRequest {op : BitVec 3} {bs rest : List Byte} {i : Instr}
    (h : decodeRequest op bs = .ok (i, rest)) : op.setWidth 8 :: bs = encode i ++ rest := by
  unfold decodeRequest at h
  split_ifs at h with h0 h1 h2 h3 h4 h5 h6
  · obtain ⟨v, hv, rfl⟩ := operand_eq_ok h
    rw [h0, eq_encodeValue_of_decodeValue hv]; rfl
  · obtain ⟨c, hc, rfl⟩ := operand_eq_ok h
    rw [h1, eq_of_decodeByte hc]; rfl
  · obtain ⟨s, hs, rfl⟩ := operand_eq_ok h
    rw [h2, eq_encodeSeq_of_decodeSeq hs]; rfl
  · obtain ⟨b, hb, rfl⟩ := operand_eq_ok h
    rw [h3, eq_encodeSeq_of_decodeSeq hb]; rfl
  · cases h; rw [h4]; rfl
  · cases h; rw [h5]; rfl
  · cases h; rw [h6]; rfl
  · have h7 : op = 0b111#3 := by bv_omega
    cases h; rw [h7]; rfl

/-- A decoded response word was encoded with its status code first (30_encoding.md R57). -/
theorem eq_encode_of_decodeStatus {status : BitVec 2} {bs rest : List Byte} {i : Instr}
    (h : decodeStatus status bs = .ok (i, rest)) : (0x40#8 + status.setWidth 8) :: bs = encode i ++ rest := by
  unfold decodeStatus at h
  split_ifs at h with h0 h1 h2
  all_goals obtain ⟨payload, hp, rfl⟩ := operand_eq_ok h
  · rw [h0, eq_encodeResult_of_decodeResult hp]; rfl
  · rw [h1, eq_of_decodeByte hp]; rfl
  · rw [h2, eq_of_decodeByte hp]; rfl
  · have h3 : status = 0b11#2 := by bv_omega
    rw [h3, eq_encodeNat_of_decodeNat hp]; rfl

/-- Whatever format its first byte is of, a decoded instruction was encoded so. -/
theorem eq_encode_of_decodeFormat {b : Byte} {bs rest : List Byte} {i : Instr}
    (h : decodeFormat b bs = .ok (i, rest)) : b :: bs = encode i ++ rest := by
  unfold decodeFormat at h
  split_ifs at h with hreq hrom hstatus hlow
  · have hb : (b.setWidth 3).setWidth 8 = b := by bv_omega
    rw [← eq_encode_of_decodeRequest h, hb]
  · cases h
    rw [encode_romRow_high b ⟨by omega, hrom⟩]; rfl
  · have hb : 0x40#8 + (b.setWidth 2).setWidth 8 = b := by bv_omega
    rw [← eq_encode_of_decodeStatus h, hb]
  · cases h
    rw [encode_romRow_low b hlow]; rfl

/-- Settles O47: the decoder keeps only well-formed instructions, and the bytes of each format are the encoder's. -/
theorem encodeInvertsDecode : Obligations.EncodeInvertsDecode := by
  intro bs i rest h
  refine ⟨?bytes, wf_of_decode h⟩
  case bytes =>
    cases bs with
    | nil => cases h
    | cons b bs => exact eq_encode_of_decodeFormat (decodeFormat_of_decode_cons h)

end Sys2Proof

/-! PROOFS. Steps (60_exceptions.md, 70_reset_and_hazards.md): what a step runs, and that every request is answered. -/

namespace Sys2Proof.Machine

theorem step_of_inbox_nil {s : State} (h : s.inbox = []) : step s = .next s := by
  simp only [step, h]

theorem step_eq_exec {s : State} {i : Instr} {rest : List Byte} (h : decode s.inbox = .ok (i, rest)) :
    step s = exec i { mem := s.mem, inbox := rest, outbox := s.outbox } := by
  unfold step
  split
  next hb => rw [hb] at h; cases h
  next hb => rw [← hb, h]

theorem step_of_decode_error {s : State} {e : DecodeError} (hne : s.inbox ≠ []) (h : decode s.inbox = .error e) :
    step s = .refused (.undecodable e) := by
  unfold step
  split
  next hb => exact absurd hb hne
  next hb => rw [← hb, h]

/-- Settles O36 by the lemma of the decoded request. -/
theorem stepRunsTheDecodedInstruction : Obligations.StepRunsTheDecodedInstruction := fun _ _ _ => step_eq_exec

/-- Settles O37, port by port: empty, or with bytes that do not decode. -/
theorem stepIsIdleOrRefusesWithoutARequest : Obligations.StepIsIdleOrRefusesWithoutARequest :=
  ⟨fun _ => step_of_inbox_nil, fun _ _ => step_of_decode_error⟩

theorem decodeValue_cons_of_high {b : Byte} (h : 64 ≤ b.toNat) (rest : List Byte) :
    decodeValue (b :: rest) = .error (.valueOutOfRange b) := by
  rw [decodeValue, if_neg (by omega)]

/-- A value byte of 64 or more is named by the decoder (60_exceptions.md R119). -/
theorem decode_symat_of_high {b : Byte} (h : 64 ≤ b.toNat) (rest : List Byte) :
    decode (0x00#8 :: b :: rest) = .error (.valueOutOfRange b) := by
  have hf : decodeFormat 0x00#8 (b :: rest) = .error (.valueOutOfRange b) :=
    congrArg (operand Instr.symat) (decodeValue_cons_of_high h rest)
  rw [decode, hf]

theorem romReadAt_of_high (m : Memory) {a : Nat} (h : 64 ≤ a) : romReadAt m a = none :=
  if_neg (by omega)

theorem romReadAt_toNat (m : Memory) (v : Value) : romReadAt m v.toNat = some (romRead m v) := by
  rw [romReadAt, if_pos v.isLt, BitVec.ofNat_toNat, BitVec.setWidth_eq]

/-- Settles O38: the decoder refuses the value, and the ROM ends at 63. -/
theorem valuesOutsideTheRomAreRefused : Obligations.ValuesOutsideTheRomAreRefused := by
  refine ⟨fun s b rest hb hs => ?refused, fun m a => ⟨romReadAt_of_high m, fun v hv => hv ▸ romReadAt_toNat m v⟩⟩
  case refused => exact step_of_decode_error (by simp [hs]) (by rw [hs, decode_symat_of_high hb])

theorem IsRequest.wf {i : Instr} (h : IsRequest i) : i.wf = true := by
  cases h <;> rfl

/-- A request has a response over every ROM (60_exceptions.md R124). -/
theorem IsRequest.exists_answerOf {i : Instr} (h : IsRequest i) (rom : Value → CharCode) :
    ∃ r, answerOf rom i = some r := by
  cases h <;> exact ⟨_, rfl⟩

/-- A presented request is decoded from its own bytes and answered with its response. -/
theorem step_of_request {i : Instr} {s : State} {rest : List Byte} (hi : IsRequest i)
    (hs : s.inbox = encode i ++ rest) : ∃ r, answerOf (romRead s.mem) i = some r ∧
      step s = .next { mem := s.mem, inbox := rest, outbox := s.outbox ++ [r] } := by
  obtain ⟨r, hr⟩ := hi.exists_answerOf (romRead s.mem)
  exact ⟨r, hr, step_of_decode (decode_of_eq_encode hs hi.wf) hr⟩

/-- Settles O39: a request is well formed and has a response, whatever its operand. -/
theorem everyRequestIsAnswered : Obligations.EveryRequestIsAnswered := by
  intro i s rest hi hs
  obtain ⟨r, -, hstep⟩ := step_of_request hi hs
  exact ⟨r, hstep⟩

/-- No instruction has an empty encoding: it would be decoded from nothing. -/
theorem encode_ne_nil {i : Instr} (hwf : i.wf = true) : encode i ≠ [] := by
  intro h
  cases decode_of_eq_encode (rest := []) (by rw [h, List.append_nil]) hwf

theorem length_lt_of_decode {bs rest : List Byte} {i : Instr} (h : decode bs = .ok (i, rest)) :
    rest.length < bs.length := by
  obtain ⟨rfl, hwf⟩ := encodeInvertsDecode bs i rest h
  have hpos := List.length_pos_of_ne_nil (encode_ne_nil hwf)
  rw [List.length_append]
  omega

/-- Settles O40: the step takes an encoding off the port, and no encoding is empty. -/
theorem everyServedRequestShortensThePort : Obligations.EveryServedRequestShortensThePort := by
  intro s t hne h
  rcases step_eq_next h with ⟨hidle, -⟩ | ⟨i, rest, r, hd, -, rfl⟩
  · exact absurd hidle hne
  · exact length_lt_of_decode hd

end Sys2Proof.Machine

/-! PROOFS. The invariant (Safety.lean): it holds after reset, and every response of a step is one the block can give. -/

namespace Sys2Proof.Machine

/-- Settles O44: nothing is listed in the ROM, presented or delivered. -/
theorem invariantHoldsAtReset : Obligations.InvariantHoldsAtReset :=
  ⟨⟨memory_wf_nil, romIntact_nil, by simp⟩, State.reset_inbox, State.reset_outbox⟩

theorem isBitChar_of_mem_bits6 {v : Value} {c : CharCode} (h : c ∈ bits6 v) : isBitChar c = true := by
  rw [bits6_eq_map] at h
  obtain ⟨b, -, rfl⟩ := List.mem_map.mp h
  exact isBitChar_bitch b

theorem RomIntact.wf_invalidCharacter {m : Memory} (h : RomIntact m) {c : CharCode} (hc : ¬ InRom m c) :
    (CodecError.invalidCharacter c).wf = true := by
  rw [h.inRom_iff] at hc
  simpa [CodecError.wf] using hc

theorem wf_bitString_flatMap_bits6 (vals : List Value) : (Result.bitString (vals.flatMap bits6)).wf = true := by
  have hbits : ∀ c ∈ vals.flatMap bits6, isBitChar c = true := fun c hc =>
    have ⟨_, _, hv⟩ := List.mem_flatMap.mp hc
    isBitChar_of_mem_bits6 hv
  simp only [Result.wf, List.all_eq_true.mpr hbits, length_flatMap_bits6, Nat.mul_mod_right, beq_self_eq_true,
    Bool.and_self]

theorem RomIntact.wf_clipString {m : Memory} (h : RomIntact m) (vals : List Value) :
    (Result.clipString (vals.map (romRead m)).reverse).wf = true := by
  simp [Result.wf, h.isSymbol_romRead]

/-- `IDXOF` answers a value, or names a character that is no symbol. -/
theorem RomIntact.wf_lookup {m : Memory} (h : RomIntact m) (c : CharCode) :
    (responseOf (lookup (romRead m) c)).wf = true := by
  unfold lookup
  cases hv : indexOf (romRead m) c with
  | some v => rfl
  | none => exact h.wf_invalidCharacter (not_exists.mpr ((indexOf_eq_none_iff _ _).mp hv))

/-- `DEC` answers whole groups, or names a character that is no symbol (42_decode.md, laws of DEC). -/
theorem RomIntact.wf_decodeClip {m : Memory} (h : RomIntact m) (cs : List CharCode) :
    (responseOf (decodeClip (romRead m) cs)).wf = true := by
  rcases symbols_or_last_bad m cs with hall | ⟨pre, c, post, rfl, hc, hpost⟩
  · obtain ⟨vals, rfl⟩ := exists_values hall
    rw [decodeClip_map h.distinct]
    exact wf_bitString_flatMap_bits6 vals.reverse
  · rw [decodeClip_bad hc hpost]
    exact h.wf_invalidCharacter hc

/-- `ENC` answers symbols, or names a character that is no bit-character or a length that is no whole number of groups
(43_encode.md, laws of ENC). -/
theorem RomIntact.wf_encodeBits {m : Memory} (h : RomIntact m) (b : List CharCode) :
    (responseOf (encodeBits (romRead m) b)).wf = true := by
  rcases first_bad isBitChar b with hall | ⟨pre, c, post, rfl, hpre, hc⟩
  · obtain ⟨bits, rfl⟩ := exists_bits hall
    by_cases hlen : bits.length % 6 = 0
    · rw [encodeBits_map _ bits hlen]
      exact h.wf_clipString _
    · rw [encodeBits_length _ bits hlen]
      exact bne_iff_ne.mpr hlen
  · rw [encodeBits_bad _ hpre hc]
    exact congrArg (!·) hc

/-- With the table in the ROM a well-formed instruction answers a response the block can give. -/
theorem RomIntact.wf_of_answerOf {m : Memory} (hm : RomIntact m) {i : Instr} {r : Response} (hwf : i.wf = true)
    (hr : answerOf (romRead m) i = some r) : r.wf = true := by
  cases i
  case idxof c => cases hr; exact hm.wf_lookup c
  case dec cs => cases hr; exact hm.wf_decodeClip cs
  case enc b => cases hr; exact hm.wf_encodeBits b
  case bpc => cases hr; rfl
  case reserved101 | reserved110 | reserved111 => cases hr
  case statusOk | statusInvalidCharacter | statusInvalidBit | statusInvalidLength => cases hr; exact hwf
  all_goals cases hr; exact hm.isSymbol_romRead _

/-- Settles O43: an idle step changes nothing, and a served request adds one response, which the decoder's check of the
request and the laws of the operations make one the block can give. -/
theorem everyStepKeepsTheInvariant : Obligations.EveryStepKeepsTheInvariant := by
  intro s t hs h
  rcases step_eq_next h with ⟨-, rfl⟩ | ⟨i, rest, r, hd, hr, rfl⟩
  · exact hs
  · have hwf : r.wf = true := hs.intact.wf_of_answerOf (wf_of_decode hd) hr
    refine ⟨hs.canonical, hs.intact, fun r' hr' => ?_⟩
    rcases List.mem_append.mp hr' with hold | hnew
    · exact hs.responses r' hold
    · rwa [List.mem_singleton.mp hnew]

end Sys2Proof.Machine

/-! PROOFS. Runs (70_reset_and_hazards.md): what every step keeps every run keeps, and what a run answers. -/

namespace Sys2Proof.Machine

/-- What every step keeps, every run keeps. -/
theorem runSteps_keeps {P : State → Prop} (hstep : ∀ s t, P s → step s = .next t → P t) {n : Nat} {s t : State}
    (hs : P s) (h : runSteps n s = .next t) : P t := by
  induction n generalizing s with
  | zero => cases h; exact hs
  | succ n ih =>
    obtain ⟨u, hu, hrun⟩ := runSteps_succ_eq_next h
    exact ih (hstep s u hs hu) hrun

theorem step_mem {s t : State} (h : step s = .next t) : t.mem = s.mem := by
  rcases step_eq_next h with ⟨-, rfl⟩ | ⟨_, _, _, -, -, rfl⟩ <;> rfl

/-- Settles O41: no step writes the ROM. -/
theorem noRunChangesTheRom : Obligations.NoRunChangesTheRom := by
  intro n s t h
  have hmem : t.mem = s.mem :=
    runSteps_keeps (P := fun u => u.mem = s.mem) (fun _ _ hu hstep => (step_mem hstep).trans hu) rfl h
  exact ⟨hmem, fun a => by rw [hmem]⟩

/-- Settles O45: each step keeps the invariant, and there is no fault to stop with (log 19). -/
theorem everyRunIsSafe : Obligations.EveryRunIsSafe := by
  intro n s hs
  unfold SafeRun
  cases h : runSteps n s with
  | next t => exact runSteps_keeps everyStepKeepsTheInvariant hs h
  | fault r => exact r.casesOn
  | refused r => trivial

/-- A step reads no response delivered before it: from another state with the same ROM and port it adds the same. -/
theorem step_of_same_port {s s' t : State} (hmem : s'.mem = s.mem) (hin : s'.inbox = s.inbox) (h : step s = .next t) :
    ∃ rs, t.outbox = s.outbox ++ rs ∧
      step s' = .next { mem := t.mem, inbox := t.inbox, outbox := s'.outbox ++ rs } := by
  rcases step_eq_next h with ⟨hidle, rfl⟩ | ⟨i, rest, r, hd, hr, rfl⟩
  · refine ⟨[], by rw [List.append_nil], ?_⟩
    rw [step_of_inbox_nil (hin.trans hidle), List.append_nil, ← hmem, ← hin]
  · rw [← hin] at hd
    rw [← hmem] at hr
    exact ⟨[r], rfl, by rw [step_of_decode hd hr, hmem]⟩

/-- Settles O35 by induction on the length of the run: step by step the two runs add the same responses. -/
theorem runsDoNotDependOnEarlierResponses : Obligations.RunsDoNotDependOnEarlierResponses := by
  intro n
  induction n with
  | zero =>
    intro s s' t hmem hin h
    cases h
    exact ⟨[], by rw [List.append_nil], by rw [List.append_nil, ← hmem, ← hin, runSteps_zero]⟩
  | succ n ih =>
    intro s s' t hmem hin h
    obtain ⟨u, hu, hrun⟩ := runSteps_succ_eq_next h
    obtain ⟨first, hfirst, hstep⟩ := step_of_same_port hmem hin hu
    obtain ⟨later, hlater, hruns⟩ := ih u ⟨u.mem, u.inbox, s'.outbox ++ first⟩ t rfl rfl hrun
    refine ⟨first ++ later, by rw [hlater, hfirst, List.append_assoc], ?_⟩
    rw [runSteps_succ_of_next hstep, hruns, List.append_assoc]

/-- As many steps as there are requests answer each with its response over the ROM, in order. -/
theorem runSteps_requests {reqs : List Instr} {s : State} (hreqs : ∀ i ∈ reqs, IsRequest i)
    (hs : s.inbox = reqs.flatMap encode) : ∃ rs, reqs.map (answerOf (romRead s.mem)) = rs.map some ∧
      runSteps reqs.length s = .next { mem := s.mem, inbox := [], outbox := s.outbox ++ rs } := by
  induction reqs generalizing s with
  | nil => exact ⟨[], rfl, by rw [List.append_nil, ← show s.inbox = [] from hs]; rfl⟩
  | cons i reqs ih =>
    obtain ⟨hi, hrest⟩ := List.forall_mem_cons.mp hreqs
    obtain ⟨r, hr, hstep⟩ := step_of_request hi (hs.trans List.flatMap_cons)
    obtain ⟨rs, hrs, hrun⟩ := ih (s := ⟨s.mem, reqs.flatMap encode, s.outbox ++ [r]⟩) hrest rfl
    refine ⟨r :: rs, by rw [List.map_cons, hr, hrs, List.map_cons], ?_⟩
    rw [List.length_cons, runSteps_succ_of_next hstep, hrun, List.append_assoc, List.singleton_append]

/-- Settles O42: each response is the request's own over the ROM, which no step changes. -/
theorem runsAnswerEachRequestByItself : Obligations.RunsAnswerEachRequestByItself := by
  intro reqs s hreqs hs
  obtain ⟨rs, hrs, hrun⟩ := runSteps_requests hreqs hs
  refine ⟨rs, by simpa using (congrArg List.length hrs).symm, hrun, ?alone⟩
  case alone =>
    intro k i r hi hr s' hmem
    have hk := congrArg (·[k]?) hrs
    have hanswer : answerOf (romRead s.mem) i = some r := by simpa [hi, hr] using hk
    exact exec_of_answerOf (hmem ▸ hanswer)

end Sys2Proof.Machine
